-- ==== Sys2Proof/Word.lean ====
section
/-! DEFINITION. The widths of the CHIP-8 core's values (spec/00_scope.md R5, R7, R11). Every value is
unsigned; a register or field that the spec gives a width is a bit vector of that width. -/

namespace Sys2Proof

/-- An 8-bit value: a general register, a timer, a memory byte, the immediate NN. -/
abbrev Byte := BitVec 8

/-- A 16-bit value: I, PC, a call-stack entry, an opcode word. -/
abbrev Word := BitVec 16

/-- A 4-bit field of an opcode: the register selectors X and Y, the row count N (R11). -/
abbrev Nibble := BitVec 4

/-- The 12-bit address field NNN of an opcode (R11, 90_conflicts.md C1). -/
abbrev Addr12 := BitVec 12

end Sys2Proof
end

