-- ==== Sys2Proof/Config.lean ====
section
/-! DEFINITION. What is fixed for one machine and left open by the spec: the parameters `P_DECODE`, `P_FLAG_ORDER`
and `FONT`, and the free random bytes. Each is an opaque constant: nothing in Lean can evaluate it, so a claim about the
machine holds for every value of it. -/

namespace Sys2Proof

/-- The two values of the parameter `P_DECODE` (30_encoding.md R79). -/
inductive DecodeMode where
  /-- A word is recognised exactly when it matches a row of the opcode table. -/
  | strict
  /-- A word is decoded by the fields the decode prose names and no others. -/
  | family
  deriving DecidableEq, Repr, Inhabited

/-- The two values of the parameter `P_FLAG_ORDER` (43_alu.md R160): what VF ends with when X = F. -/
inductive FlagOrder where
  /-- VF ends holding the flag. -/
  | flagLast
  /-- VF ends holding the result. -/
  | resultLast
  deriving DecidableEq, Repr, Inhabited

/-- `P_DECODE`, left OPEN by 92_eei_decisions.md D2 (log entry 3). -/
opaque Config.decodeMode : DecodeMode

/-- `P_FLAG_ORDER`, left OPEN by 92_eei_decisions.md D4 (log entry 4). -/
opaque Config.flagOrder : FlagOrder

/-- `FONT`, the 80 bytes construction puts at 0x050-0x09F, left OPEN by 92_eei_decisions.md D14 (70 R261; log entry 5). -/
opaque Config.font : Vector Byte 80

/-- The byte the `n`-th CXNN since construction draws from the `rand` input: a free input, any value each time
(43_alu.md R175, 92_eei_decisions.md D19; log entry 6). -/
opaque Config.randByte : Nat → Byte

/-- The default the spec names for `FONT` (70 R261; PRESUMED: "from general knowledge, not in source", log entry 5), one glyph a
line, top row first. No definition of the machine uses it: a claim that depends on glyph bytes takes
`Config.font.toList = Config.defaultFont` as a premise. -/
def Config.defaultFont : List Byte :=
  [0xF0, 0x90, 0x90, 0x90, 0xF0] ++ -- 0
  [0x20, 0x60, 0x20, 0x20, 0x70] ++ -- 1
  [0xF0, 0x10, 0xF0, 0x80, 0xF0] ++ -- 2
  [0xF0, 0x10, 0xF0, 0x10, 0xF0] ++ -- 3
  [0x90, 0x90, 0xF0, 0x10, 0x10] ++ -- 4
  [0xF0, 0x80, 0xF0, 0x10, 0xF0] ++ -- 5
  [0xF0, 0x80, 0xF0, 0x90, 0xF0] ++ -- 6
  [0xF0, 0x10, 0x20, 0x40, 0x40] ++ -- 7
  [0xF0, 0x90, 0xF0, 0x90, 0xF0] ++ -- 8
  [0xF0, 0x90, 0xF0, 0x10, 0xF0] ++ -- 9
  [0xF0, 0x90, 0xF0, 0x90, 0x90] ++ -- A
  [0xE0, 0x90, 0xE0, 0x90, 0xE0] ++ -- B
  [0xF0, 0x80, 0x80, 0x80, 0xF0] ++ -- C
  [0xE0, 0x90, 0x90, 0x90, 0xE0] ++ -- D
  [0xF0, 0x80, 0xF0, 0x80, 0xF0] ++ -- E
  [0xF0, 0x80, 0xF0, 0x80, 0x80]    -- F

end Sys2Proof
end

