-- ==== Sys2Proof/Syntax.lean ====
section
/-! DEFINITION. The 34 instructions of the opcode table (30_encoding.md R76), one constructor a row. A constructor's name is
`op` and the row's pattern, which is the instruction's normative name (R82); its arguments are the row's fields,
in the order of the pattern. -/

namespace Sys2Proof

/-- An instruction with its operand fields extracted (30_encoding.md R72, R73). -/
inductive Instr where
  /-- 00E0, clear screen (41_display.md R120). -/
  | op00E0
  /-- 00EE, return (42_control_flow.md R140). -/
  | op00EE
  /-- 1NNN, jump (R141). -/
  | op1NNN (nnn : Addr12)
  /-- 2NNN, call (R142). -/
  | op2NNN (nnn : Addr12)
  /-- 3XNN, skip if VX equals the immediate (R143). -/
  | op3XNN (x : Nibble) (nn : Byte)
  /-- 4XNN, skip if VX differs from the immediate (R144). -/
  | op4XNN (x : Nibble) (nn : Byte)
  /-- 5XY0, skip if VX equals VY (R145). -/
  | op5XY0 (x y : Nibble)
  /-- 6XNN, load immediate (43_alu.md R161). -/
  | op6XNN (x : Nibble) (nn : Byte)
  /-- 7XNN, add immediate (R162). -/
  | op7XNN (x : Nibble) (nn : Byte)
  /-- 8XY0, move (R163). -/
  | op8XY0 (x y : Nibble)
  /-- 8XY1, or (R164). -/
  | op8XY1 (x y : Nibble)
  /-- 8XY2, and (R165). -/
  | op8XY2 (x y : Nibble)
  /-- 8XY3, xor (R166). -/
  | op8XY3 (x y : Nibble)
  /-- 8XY4, add with carry (R167). -/
  | op8XY4 (x y : Nibble)
  /-- 8XY5, subtract (R168). -/
  | op8XY5 (x y : Nibble)
  /-- 8XY6, shift right; Y is part of the word and changes nothing (R169, 30_encoding.md R77). -/
  | op8XY6 (x y : Nibble)
  /-- 8XY7, reverse subtract (R170). -/
  | op8XY7 (x y : Nibble)
  /-- 8XYE, shift left; Y is part of the word and changes nothing (R171, 30_encoding.md R77). -/
  | op8XYE (x y : Nibble)
  /-- 9XY0, skip if VX differs from VY (42_control_flow.md R146). -/
  | op9XY0 (x y : Nibble)
  /-- ANNN, load I (44_index_memory.md R190). -/
  | opANNN (nnn : Addr12)
  /-- BNNN, jump plus V0 (42_control_flow.md R147). -/
  | opBNNN (nnn : Addr12)
  /-- CXNN, random AND immediate (43_alu.md R175). -/
  | opCXNN (x : Nibble) (nn : Byte)
  /-- DXYN, draw sprite (41_display.md R121). -/
  | opDXYN (x y n : Nibble)
  /-- EX9E, skip if key VX is pressed (45_keypad_timers.md R210). -/
  | opEX9E (x : Nibble)
  /-- EXA1, skip if key VX is not pressed (R211). -/
  | opEXA1 (x : Nibble)
  /-- FX07, read delay timer (R212). -/
  | opFX07 (x : Nibble)
  /-- FX0A, wait for key (R213). -/
  | opFX0A (x : Nibble)
  /-- FX15, set delay timer (R214). -/
  | opFX15 (x : Nibble)
  /-- FX18, set sound timer (R215). -/
  | opFX18 (x : Nibble)
  /-- FX1E, add VX to I (44_index_memory.md R191). -/
  | opFX1E (x : Nibble)
  /-- FX29, point I at a font glyph (R192). -/
  | opFX29 (x : Nibble)
  /-- FX33, store decimal digits (R193). -/
  | opFX33 (x : Nibble)
  /-- FX55, store registers (R194). -/
  | opFX55 (x : Nibble)
  /-- FX65, load registers (R195). -/
  | opFX65 (x : Nibble)
  deriving DecidableEq, Repr

end Sys2Proof
end

