-- ==== Sys2Proof/WellFormed.lean ====
section
/-! DEFINITION. What makes input well formed. An operand field of an instruction has exactly the width of its field in the opcode
word (30_encoding.md R71, R72), so its type leaves no ill-formed instruction to refuse: every X, Y, N, NN and NNN is
legal, and the only encodings outside the set are words, which the decoder rejects. The other input of the machine is a ROM
image, which is well formed when it fits (70_reset_and_hazards.md R263). -/

namespace Sys2Proof

/-- Every instruction value is well formed: R72 puts no condition on a field beyond its width, and the type holds that. -/
def Instr.wellFormed : Instr → Bool := fun _ => true

/-- A ROM image fits when it ends at or below the top of Memory: `0x200 + length <= 4096` (R263). "No other validation is
performed". -/
def romFits (bytes : List Byte) : Bool := decide (0x200 + bytes.length ≤ 0x1000)

end Sys2Proof
end

