-- ==== Sys2Proof/Decode.lean ====
section
/-! DEFINITION. Decoding an opcode word (30_encoding.md R70 to R81) and the encoder. Decoding is total: a word is an instruction of
the table with its fields, or `unknown`, by the parameter `P_DECODE`. -/

namespace Sys2Proof

/-- What decoding gives (R73, R81). -/
inductive Decoded where
  /-- An instruction of the opcode table. -/
  | instr (i : Instr)
  /-- A word the decoder does not recognise (R78): a no-op, not a fault. -/
  | unknown (op : Word)
  deriving DecidableEq, Repr

/-- Why a list of bytes holds no opcode word. -/
inductive BytesRejected where
  /-- Fewer than the two bytes of an opcode word (R70). A fetch always has two. -/
  | truncated
  deriving DecidableEq, Repr

/-- The big-endian opcode word: the byte at the lower address in bits 15:8 (20_memory.md R55). -/
def wordOfBytes (hi lo : Byte) : Word := hi ++ lo

/-- The two bytes of a word as Memory holds them, lower address first (R55). -/
def bytesOfWord (w : Word) : List Byte := [w.extractLsb' 8 8, w.extractLsb' 0 8]

/-- `op[15:12]`, the family nibble (R11). -/
def opFamily (w : Word) : Nibble := w.extractLsb' 12 4

/-- `X = op[11:8]` (R11). -/
def fieldX (w : Word) : Nibble := w.extractLsb' 8 4

/-- `Y = op[7:4]` (R11). -/
def fieldY (w : Word) : Nibble := w.extractLsb' 4 4

/-- `N = op[3:0]` (R11). -/
def fieldN (w : Word) : Nibble := w.extractLsb' 0 4

/-- `NN = op[7:0]` (R11). -/
def fieldNN (w : Word) : Byte := w.extractLsb' 0 8

/-- `NNN = op[11:0]` (R11). -/
def fieldNNN (w : Word) : Addr12 := w.extractLsb' 0 12

/-- Family 8, by its low nibble (R74). -/
def decodeFamily8 (x y n : Nibble) : Option Instr :=
  if n = 0x0 then some (.op8XY0 x y)
  else if n = 0x1 then some (.op8XY1 x y)
  else if n = 0x2 then some (.op8XY2 x y)
  else if n = 0x3 then some (.op8XY3 x y)
  else if n = 0x4 then some (.op8XY4 x y)
  else if n = 0x5 then some (.op8XY5 x y)
  else if n = 0x6 then some (.op8XY6 x y)
  else if n = 0x7 then some (.op8XY7 x y)
  else if n = 0xE then some (.op8XYE x y)
  else none

/-- Family E, by its low byte (R74). -/
def decodeFamilyE (x : Nibble) (nn : Byte) : Option Instr :=
  if nn = 0x9E then some (.opEX9E x)
  else if nn = 0xA1 then some (.opEXA1 x)
  else none

/-- Family F, by its low byte (R74). -/
def decodeFamilyF (x : Nibble) (nn : Byte) : Option Instr :=
  if nn = 0x07 then some (.opFX07 x)
  else if nn = 0x0A then some (.opFX0A x)
  else if nn = 0x15 then some (.opFX15 x)
  else if nn = 0x18 then some (.opFX18 x)
  else if nn = 0x1E then some (.opFX1E x)
  else if nn = 0x29 then some (.opFX29 x)
  else if nn = 0x33 then some (.opFX33 x)
  else if nn = 0x55 then some (.opFX55 x)
  else if nn = 0x65 then some (.opFX65 x)
  else none

/-- The STRICT reading: the instruction whose row of R75 the word matches, if any. -/
def decodeStrict (w : Word) : Option Instr :=
  let f := opFamily w
  if f = 0x0 then
    if w = 0x00E0 then some .op00E0 else if w = 0x00EE then some .op00EE else none
  else if f = 0x1 then some (.op1NNN (fieldNNN w))
  else if f = 0x2 then some (.op2NNN (fieldNNN w))
  else if f = 0x3 then some (.op3XNN (fieldX w) (fieldNN w))
  else if f = 0x4 then some (.op4XNN (fieldX w) (fieldNN w))
  else if f = 0x5 then if fieldN w = 0x0 then some (.op5XY0 (fieldX w) (fieldY w)) else none
  else if f = 0x6 then some (.op6XNN (fieldX w) (fieldNN w))
  else if f = 0x7 then some (.op7XNN (fieldX w) (fieldNN w))
  else if f = 0x8 then decodeFamily8 (fieldX w) (fieldY w) (fieldN w)
  else if f = 0x9 then if fieldN w = 0x0 then some (.op9XY0 (fieldX w) (fieldY w)) else none
  else if f = 0xA then some (.opANNN (fieldNNN w))
  else if f = 0xB then some (.opBNNN (fieldNNN w))
  else if f = 0xC then some (.opCXNN (fieldX w) (fieldNN w))
  else if f = 0xD then some (.opDXYN (fieldX w) (fieldY w) (fieldN w))
  else if f = 0xE then decodeFamilyE (fieldX w) (fieldNN w)
  else decodeFamilyF (fieldX w) (fieldNN w)

/-- What the FAMILY reading adds to the STRICT one (R79): family 0 by its low byte alone, families 5 and 9 by their
top nibble alone. On the words of the table the two readings agree, so this is asked only of the others. -/
def decodeFamilyExtra (w : Word) : Option Instr :=
  if opFamily w = 0x0 then
    if fieldNN w = 0xE0 then some .op00E0 else if fieldNN w = 0xEE then some .op00EE else none
  else if opFamily w = 0x5 then some (.op5XY0 (fieldX w) (fieldY w))
  else if opFamily w = 0x9 then some (.op9XY0 (fieldX w) (fieldY w))
  else none

/-- Decode a word under a value of `P_DECODE` (R79, R81, R103). Decode reads no state. -/
def decode (m : DecodeMode) (w : Word) : Decoded :=
  match decodeStrict w with
  | some i => .instr i
  | none =>
    match m with
    | .strict => .unknown w
    | .family =>
      match decodeFamilyExtra w with
      | some i => .instr i
      | none => .unknown w

/-- Decode the first instruction of a list of bytes, giving the bytes after it. -/
def decodeBytes (m : DecodeMode) : List Byte → Except BytesRejected (Decoded × List Byte)
  | hi :: lo :: rest => .ok (decode m (wordOfBytes hi lo), rest)
  | _ => .error .truncated

/-- The instruction this decoder reads from a table word (fixed name of the host): the low `nbits` bits of `w`, the bits above
them 0, laid out as Memory holds them. Every instruction is 16 bits (R70). -/
def decodeTableWord (nbits w : Nat) : Option Instr :=
  match decodeBytes Config.decodeMode (bytesOfWord (BitVec.ofNat 16 (w % 2 ^ nbits))) with
  | .ok (.instr i, _) => some i
  | .ok (.unknown _, _) => none
  | .error _ => none

/-- A row of the field-value table R75: a word matches it when `op AND mask = word`. -/
structure OpcodeRow where
  mnemonic : String
  word : Word
  mask : Word
  deriving DecidableEq, Repr

/-- `(op AND mask) = match` (R75). -/
def OpcodeRow.matchesWord (r : OpcodeRow) (w : Word) : Bool := w &&& r.mask == r.word

/-- The row of R75 an instruction belongs to. -/
def rowOf : Instr → OpcodeRow
  | .op00E0 => ⟨"00E0", 0x00E0, 0xFFFF⟩
  | .op00EE => ⟨"00EE", 0x00EE, 0xFFFF⟩
  | .op1NNN _ => ⟨"1NNN", 0x1000, 0xF000⟩
  | .op2NNN _ => ⟨"2NNN", 0x2000, 0xF000⟩
  | .op3XNN _ _ => ⟨"3XNN", 0x3000, 0xF000⟩
  | .op4XNN _ _ => ⟨"4XNN", 0x4000, 0xF000⟩
  | .op5XY0 _ _ => ⟨"5XY0", 0x5000, 0xF00F⟩
  | .op6XNN _ _ => ⟨"6XNN", 0x6000, 0xF000⟩
  | .op7XNN _ _ => ⟨"7XNN", 0x7000, 0xF000⟩
  | .op8XY0 _ _ => ⟨"8XY0", 0x8000, 0xF00F⟩
  | .op8XY1 _ _ => ⟨"8XY1", 0x8001, 0xF00F⟩
  | .op8XY2 _ _ => ⟨"8XY2", 0x8002, 0xF00F⟩
  | .op8XY3 _ _ => ⟨"8XY3", 0x8003, 0xF00F⟩
  | .op8XY4 _ _ => ⟨"8XY4", 0x8004, 0xF00F⟩
  | .op8XY5 _ _ => ⟨"8XY5", 0x8005, 0xF00F⟩
  | .op8XY6 _ _ => ⟨"8XY6", 0x8006, 0xF00F⟩
  | .op8XY7 _ _ => ⟨"8XY7", 0x8007, 0xF00F⟩
  | .op8XYE _ _ => ⟨"8XYE", 0x800E, 0xF00F⟩
  | .op9XY0 _ _ => ⟨"9XY0", 0x9000, 0xF00F⟩
  | .opANNN _ => ⟨"ANNN", 0xA000, 0xF000⟩
  | .opBNNN _ => ⟨"BNNN", 0xB000, 0xF000⟩
  | .opCXNN _ _ => ⟨"CXNN", 0xC000, 0xF000⟩
  | .opDXYN _ _ _ => ⟨"DXYN", 0xD000, 0xF000⟩
  | .opEX9E _ => ⟨"EX9E", 0xE09E, 0xF0FF⟩
  | .opEXA1 _ => ⟨"EXA1", 0xE0A1, 0xF0FF⟩
  | .opFX07 _ => ⟨"FX07", 0xF007, 0xF0FF⟩
  | .opFX0A _ => ⟨"FX0A", 0xF00A, 0xF0FF⟩
  | .opFX15 _ => ⟨"FX15", 0xF015, 0xF0FF⟩
  | .opFX18 _ => ⟨"FX18", 0xF018, 0xF0FF⟩
  | .opFX1E _ => ⟨"FX1E", 0xF01E, 0xF0FF⟩
  | .opFX29 _ => ⟨"FX29", 0xF029, 0xF0FF⟩
  | .opFX33 _ => ⟨"FX33", 0xF033, 0xF0FF⟩
  | .opFX55 _ => ⟨"FX55", 0xF055, 0xF0FF⟩
  | .opFX65 _ => ⟨"FX65", 0xF065, 0xF0FF⟩

/-- One instruction of each row, its fields zero, in the table's order. -/
def rowSamples : List Instr :=
  [.op00E0, .op00EE, .op1NNN 0, .op2NNN 0, .op3XNN 0 0, .op4XNN 0 0, .op5XY0 0 0, .op6XNN 0 0, .op7XNN 0 0] ++
  [.op8XY0 0 0, .op8XY1 0 0, .op8XY2 0 0, .op8XY3 0 0, .op8XY4 0 0, .op8XY5 0 0, .op8XY6 0 0, .op8XY7 0 0] ++
  [.op8XYE 0 0, .op9XY0 0 0, .opANNN 0, .opBNNN 0, .opCXNN 0 0, .opDXYN 0 0 0, .opEX9E 0, .opEXA1 0] ++
  [.opFX07 0, .opFX0A 0, .opFX15 0, .opFX18 0, .opFX1E 0, .opFX29 0, .opFX33 0, .opFX55 0, .opFX65 0]

/-- The field-value table R75: its 34 rows, in the table's order. -/
def opcodeRows : List OpcodeRow := rowSamples.map rowOf

/-- The opcode word of an instruction, written from the formats R71 and the patterns R75: the fixed nibbles and the
fields, most significant first. -/
def encode : Instr → Word
  | .op00E0 => 0x00E0
  | .op00EE => 0x00EE
  | .op1NNN nnn => 0x1#4 ++ nnn
  | .op2NNN nnn => 0x2#4 ++ nnn
  | .op3XNN x nn => 0x3#4 ++ x ++ nn
  | .op4XNN x nn => 0x4#4 ++ x ++ nn
  | .op5XY0 x y => 0x5#4 ++ x ++ y ++ 0x0#4
  | .op6XNN x nn => 0x6#4 ++ x ++ nn
  | .op7XNN x nn => 0x7#4 ++ x ++ nn
  | .op8XY0 x y => 0x8#4 ++ x ++ y ++ 0x0#4
  | .op8XY1 x y => 0x8#4 ++ x ++ y ++ 0x1#4
  | .op8XY2 x y => 0x8#4 ++ x ++ y ++ 0x2#4
  | .op8XY3 x y => 0x8#4 ++ x ++ y ++ 0x3#4
  | .op8XY4 x y => 0x8#4 ++ x ++ y ++ 0x4#4
  | .op8XY5 x y => 0x8#4 ++ x ++ y ++ 0x5#4
  | .op8XY6 x y => 0x8#4 ++ x ++ y ++ 0x6#4
  | .op8XY7 x y => 0x8#4 ++ x ++ y ++ 0x7#4
  | .op8XYE x y => 0x8#4 ++ x ++ y ++ 0xE#4
  | .op9XY0 x y => 0x9#4 ++ x ++ y ++ 0x0#4
  | .opANNN nnn => 0xA#4 ++ nnn
  | .opBNNN nnn => 0xB#4 ++ nnn
  | .opCXNN x nn => 0xC#4 ++ x ++ nn
  | .opDXYN x y n => 0xD#4 ++ x ++ y ++ n
  | .opEX9E x => 0xE#4 ++ x ++ 0x9E#8
  | .opEXA1 x => 0xE#4 ++ x ++ 0xA1#8
  | .opFX07 x => 0xF#4 ++ x ++ 0x07#8
  | .opFX0A x => 0xF#4 ++ x ++ 0x0A#8
  | .opFX15 x => 0xF#4 ++ x ++ 0x15#8
  | .opFX18 x => 0xF#4 ++ x ++ 0x18#8
  | .opFX1E x => 0xF#4 ++ x ++ 0x1E#8
  | .opFX29 x => 0xF#4 ++ x ++ 0x29#8
  | .opFX33 x => 0xF#4 ++ x ++ 0x33#8
  | .opFX55 x => 0xF#4 ++ x ++ 0x55#8
  | .opFX65 x => 0xF#4 ++ x ++ 0x65#8

/-- The instruction's two bytes in Memory, lower address first (R55, R70). -/
def encodeBytes (i : Instr) : List Byte := bytesOfWord (encode i)

end Sys2Proof
end

