-- ==== Sys2Proof/Machine/State.lean ====
section
/-! DEFINITION. The machine state, as plain data: everything 10_state.md gives the core, the keypad input, and one field of the
model's own (`draws`). The widths are those of R20 to R34. -/

namespace Sys2Proof.Machine

/-- Memory: the cells whose byte differs from the construction contents, addresses strictly rising (log entry 8). What an
unlisted address reads as is `Memory.initial` in Machine/Ops.lean. -/
abbrev Memory := List Host.Cell

/-- The frame buffer: 32 rows, top to bottom, of 64 one-bit pixels, left to right; `true` is on (10_state.md R31). -/
abbrev FrameBuffer := Vector (Vector Bool 64) 32

/-- Whether a ROM load is still accepted (10_state.md R34, 70_reset_and_hazards.md R264). -/
inductive Phase where
  /-- After construction or Reset. -/
  | loadable
  /-- After an accepted ROM load. -/
  | loaded
  /-- From the first Step on. -/
  | running
  deriving DecidableEq, Repr

/-- The faults a Step can raise, with what each records (60_exceptions.md R231). -/
inductive FaultKind where
  /-- Code 1: 2NNN with 16 entries held. -/
  | stackOverflow
  /-- Code 2: 00EE with no entry held. -/
  | stackUnderflow
  /-- Code 3: the lowest address of 0x1000 or more the instruction or the fetch would access. -/
  | memoryFault (addr : Nat)
  /-- Code 4: EX9E or EXA1 with VX of 0x10 or more; the key index is VX. -/
  | keyIndexFault (key : Byte)
  deriving DecidableEq, Repr

/-- `FaultInfo` (60_exceptions.md R237). -/
structure FaultInfo where
  /-- The fault, with the address or the key index it records. -/
  kind : FaultKind
  /-- The address of the faulting instruction. -/
  pc : Word
  /-- Its opcode word, or none for a fetch fault. -/
  op : Option Word
  deriving DecidableEq, Repr

/-- The machine state (10_state.md, the state record; R20 to R34). -/
structure State where
  /-- Memory, 4096 bytes (20_memory.md R50). -/
  mem : Memory
  /-- V0 to VF; VF is also the flag (R20, R21). -/
  v : Vector Byte 16
  /-- The index register I (R25). -/
  i : Word
  /-- The program counter PC (R23). -/
  pc : Word
  /-- The sixteen entries of the call stack (R27). -/
  stack : Vector Word 16
  /-- SP, the number of entries held, 0..16 (R27). -/
  sp : Fin 17
  /-- The delay timer DT (R28). -/
  dt : Byte
  /-- The sound timer ST (R28). -/
  st : Byte
  /-- The frame buffer FB (R31). -/
  fb : FrameBuffer
  /-- The keypad input, `true` is pressed; only the host writes it, between Steps (R30; log entry 7). -/
  key : Vector Bool 16
  /-- The load phase (R34). -/
  phase : Phase
  /-- The fault latch (R34). -/
  fault : Option FaultInfo
  /-- The MODEL's own field: how many bytes CXNN has drawn from the `rand` input (log entry 6). -/
  draws : Nat
  deriving DecidableEq, Repr

/-- Reasons the host interface's `fault` outcome could carry. There are none: a fault of this hardware is a NEXT state with the
latch set, and "every state has a Step" (93_implementation_defined.md; 40_cycle_engine.md R108, R111; log entry 1). No step
raises one, which is safe. -/
inductive Fault where
  deriving DecidableEq, Repr

/-- Reasons a step could be refused. -/
inductive Refusal where
  /-- An instruction the model gives no meaning yet; raised only by an arm of `exec` in Machine/Dispatch.lean, and no arm
  raises it now. Safe: the machine stops where the hardware goes on. -/
  | notModelled (mnemonic : String)
  deriving DecidableEq, Repr

/-- The state after construction or Reset, before any ROM load (70_reset_and_hazards.md R260, R262). Memory lists nothing: it
holds the construction contents. `draws` is 0, the model's choice (log entry 6). -/
def State.reset : State where
  mem := []
  v := Vector.replicate 16 0x00
  i := 0x0000
  pc := 0x0200
  stack := Vector.replicate 16 0x0000
  sp := 0
  dt := 0x00
  st := 0x00
  fb := Vector.replicate 32 (Vector.replicate 64 false)
  key := Vector.replicate 16 false
  phase := .loadable
  fault := none
  draws := 0

end Sys2Proof.Machine
end

