-- ==== Sys2Proof/Machine/Ops.lean ====
section
/-! DEFINITION. The named operations over memory, registers, the call stack, the timers and the fault latch. Every meaning
is written over these, so byte order, range checks, the stack's limits and taking a fault are each decided here, once. -/

namespace Sys2Proof.Machine

/-! ### Memory (20_memory.md) -/

/-- Memory has addresses 0x000 to 0xFFF (R50). -/
def memorySize : Nat := 0x1000

/-- The font region starts here (R51). -/
def fontBase : Nat := 0x050

/-- Programs load here (R51, 70_reset_and_hazards.md R263). -/
def programBase : Nat := 0x200

/-- The construction contents, which an address nothing has written reads as: FONT at 0x050-0x09F, zero elsewhere
(70_reset_and_hazards.md R260, R262). -/
def Memory.initial (a : Nat) : Byte :=
  if h : fontBase ≤ a ∧ a < fontBase + 80 then
    Config.font[a - fontBase]'(by omega)
  else 0x00

/-- The byte at address `a` (R9, R58). -/
def Memory.read : Memory → Nat → Byte
  | [], a => Memory.initial a
  | (k, b) :: rest, a => if a = k then b else Memory.read rest a

/-- Store a byte, keeping the canonical form: the cell is listed, in its place, exactly when the byte differs from the
construction contents (R9, log entry 8). -/
def Memory.write : Memory → Nat → Byte → Memory
  | [], a, b => if b = Memory.initial a then [] else [(a, b)]
  | (k, c) :: rest, a, b =>
    if a < k then
      if b = Memory.initial a then (k, c) :: rest else (a, b) :: (k, c) :: rest
    else if a = k then
      if b = Memory.initial a then rest else (a, b) :: rest
    else (k, c) :: Memory.write rest a b

/-- Store bytes at ascending addresses from `a` (R55). -/
def Memory.writeList (m : Memory) : Nat → List Byte → Memory
  | _, [] => m
  | a, b :: rest => Memory.writeList (m.write a b) (a + 1) rest

/-- The `n` bytes at ascending addresses from `a` (R55). -/
def Memory.readList (m : Memory) (a n : Nat) : List Byte := (List.range n).map fun k => m.read (a + k)

/-- The cells after address `lo` are canonical: addresses rising and inside Memory, no byte equal to the construction
contents. -/
def Memory.wfFrom : Nat → Memory → Bool
  | _, [] => true
  | lo, (k, b) :: rest =>
    decide (lo ≤ k) && decide (k < memorySize) && decide (b ≠ Memory.initial k) && Memory.wfFrom (k + 1) rest

/-- The canonical form of Memory (log entry 8): equal memories are equal lists. -/
def Memory.wf (m : Memory) : Bool := Memory.wfFrom 0 m

/-- The lowest address of 0x1000 or more among the `n` addresses from `base`, which are exact sums, never wrapped
(R54); none when the access may be performed. -/
def outOfRange? (base n : Nat) : Option Nat :=
  ((List.range n).map fun k => base + k).find? fun a => decide (memorySize ≤ a)

/-! ### Registers -/

/-- Read Vx (00_scope.md R8, 10_state.md R20). -/
def State.getV (s : State) (x : Nibble) : Byte := s.v[x.toNat]'x.isLt

/-- Write Vx (R8). No register is hard-wired (R20). -/
def State.setV (s : State) (x : Nibble) (b : Byte) : State := { s with v := s.v.set x.toNat b x.isLt }

/-- Write I (10_state.md R25). -/
def State.setI (s : State) (w : Word) : State := { s with i := w }

/-- Write PC (10_state.md R23). -/
def State.setPc (s : State) (w : Word) : State := { s with pc := w }

/-- Write DT (10_state.md R28). -/
def State.setDt (s : State) (b : Byte) : State := { s with dt := b }

/-- Write ST (10_state.md R28). -/
def State.setSt (s : State) (b : Byte) : State := { s with st := b }

/-- Replace Memory. -/
def State.setMem (s : State) (m : Memory) : State := { s with mem := m }

/-- Replace the frame buffer. -/
def State.setFb (s : State) (f : FrameBuffer) : State := { s with fb := f }

/-- Set the load phase (70_reset_and_hazards.md R264). -/
def State.setPhase (s : State) (p : Phase) : State := { s with phase := p }

/-- The fetch advance `PC <- (pc0 + 2) mod 2^16` (40_cycle_engine.md R102). A meaning works on the advanced state, whose PC is
the `PC` of the spec's instruction rules. -/
def State.advance (s : State) : State := s.setPc (s.pc + 2)

/-- A skip: `PC <- (PC + 2) mod 2^16` when the condition holds (42_control_flow.md R148). -/
def State.skipIf (s : State) (c : Bool) : State := if c then s.setPc (s.pc + 2) else s

/-! ### Call stack (10_state.md R27) -/

/-- Stack entry `k`; only 0..15 exist. -/
def State.stackEntry (s : State) (k : Nat) : Word := s.stack[k]?.getD 0

/-- Push, or none when 16 entries are held. -/
def State.push (s : State) (w : Word) : Option State :=
  if h : s.sp.val < 16 then
    some { s with stack := s.stack.set s.sp.val w h, sp := ⟨s.sp.val + 1, by omega⟩ }
  else none

/-- Pop, or none when no entry is held. The entry read keeps its value (R27). -/
def State.pop (s : State) : Option (Word × State) :=
  if 0 < s.sp.val then
    some (s.stackEntry (s.sp.val - 1), { s with sp := ⟨s.sp.val - 1, by omega⟩ })
  else none

/-! ### Fetch and faults -/

/-- The opcode word at PC, or the lowest address of 0x1000 or more the fetch would access, in which case no byte is
fetched (20_memory.md R55, R56; 40_cycle_engine.md R101). -/
def State.fetch (s : State) : Except Nat Word :=
  match outOfRange? s.pc.toNat 2 with
  | some a => .error a
  | none => .ok (wordOfBytes (s.mem.read s.pc.toNat) (s.mem.read (s.pc.toNat + 1)))

/-- The opcode word a FaultInfo records: the word at PC, none when it cannot be fetched (60_exceptions.md R237; log entry 11). -/
def State.opcode? (s : State) : Option Word :=
  match s.fetch with
  | .ok op => some op
  | .error _ => none

/-- The `FaultInfo` of a fault the instruction at PC raises (60_exceptions.md R237). -/
def State.faultInfo (s : State) (k : FaultKind) : FaultInfo := { kind := k, pc := s.pc, op := s.opcode? }

/-- Take a fault (60_exceptions.md R236), from the state the Step began with, so that nothing of the faulting instruction is
written and PC keeps its address: only the latch is set. A latch that holds a fault keeps it (R238). -/
def State.raise (s : State) (k : FaultKind) : State := { s with fault := some (s.fault.getD (s.faultInfo k)) }

/-- The spec's number of a fault (60_exceptions.md R231). -/
def faultCode : FaultKind → Nat
  | .stackOverflow => 1
  | .stackUnderflow => 2
  | .memoryFault _ => 3
  | .keyIndexFault _ => 4

/-! ### Timers, keypad, random byte -/

/-- `if t > 0 then t <- t - 1` (40_cycle_engine.md R106). -/
def tickDown (t : Byte) : Byte := if 0 < t.toNat then t - 1 else t

/-- The tick of both timers that ends every Step that does not fault (R106). -/
def State.tick (s : State) : State := { s with dt := tickDown s.dt, st := tickDown s.st }

/-- The level of key `k`, or none when there is no such key (10_state.md R30). -/
def State.key? (s : State) (k : Byte) : Option Bool := s.key[k.toNat]?

/-- The least pressed key of 0..15, if any (45_keypad_timers.md R213). -/
def State.firstKey? (s : State) : Option Byte :=
  ((List.range 16).map (BitVec.ofNat 8)).find? fun k => s.key? k == some true

/-- Draw one byte from the `rand` input (00_scope.md R10, 43_alu.md R175; log entry 6). -/
def State.drawRand (s : State) : Byte × State := (Config.randByte s.draws, { s with draws := s.draws + 1 })

end Sys2Proof.Machine
end

