-- ==== Sys2Proof/Machine/Flags.lean ====
section
/-! DEFINITION. Every flag computation the spec gives: carry, not-borrow, the shifted-out bits, the collision bit's byte, and
the shared write of a result and a flag (43_alu.md R160, R167 to R173). A flag is the byte 0 or 1 written to VF. -/

namespace Sys2Proof.Machine

/-- The number of VF, which carries every flag (10_state.md R21, R22). -/
def flagReg : Nibble := 0xF

/-- A condition as the flag byte: 1 when it holds, else 0. -/
def flagByte (c : Bool) : Byte := if c then 1 else 0

/-- Carry of `a + b`: "the unwrapped sum exceeds 255" (R167, R172). -/
def carryFlag (a b : Byte) : Byte := flagByte (decide (a.toNat + b.toNat > 255))

/-- Not-borrow of `a - b`: 0 if `b > a`, else 1 (R168, R170, R172). -/
def notBorrowFlag (a b : Byte) : Byte := flagByte (!decide (b.toNat > a.toNat))

/-- The bit a right shift moves out: bit 0 of the value before it (R169). -/
def shiftRightFlag (a : Byte) : Byte := flagByte (a.getLsbD 0)

/-- The bit a left shift moves out: bit 7 of the value before it (R171). -/
def shiftLeftFlag (a : Byte) : Byte := flagByte (a.getLsbD 7)

/-- `WriteResultAndFlag(res, f)` (R173); when X = F the parameter `P_FLAG_ORDER` says which write is last (R160). -/
def State.writeResultAndFlag (s : State) (order : FlagOrder) (x : Nibble) (res f : Byte) : State :=
  if x = flagReg then
    match order with
    | .flagLast => s.setV flagReg f
    | .resultLast => s.setV flagReg res
  else (s.setV x res).setV flagReg f

end Sys2Proof.Machine
end

