-- ==== Sys2Proof/Machine/Alu.lean ====
section
/-! DEFINITION. The ALU family: families 6, 7, 8 and C (43_alu.md R160 to R175). Operands are read from `s`, the state before
any write of the instruction (40_cycle_engine.md R104). None accesses memory or faults. -/

namespace Sys2Proof.Machine

/-- 6XNN, load immediate (R161). -/
def exec6XNN (x : Nibble) (nn : Byte) (s : State) : Host.Outcome State Fault Refusal :=
  .next (s.advance.setV x nn)

/-- 7XNN, add immediate modulo 256, no flag (R162). -/
def exec7XNN (x : Nibble) (nn : Byte) (s : State) : Host.Outcome State Fault Refusal :=
  .next (s.advance.setV x (s.getV x + nn))

/-- 8XY0, move (R163). -/
def exec8XY0 (x y : Nibble) (s : State) : Host.Outcome State Fault Refusal :=
  .next (s.advance.setV x (s.getV y))

/-- 8XY1, or, no flag (R164, R174). -/
def exec8XY1 (x y : Nibble) (s : State) : Host.Outcome State Fault Refusal :=
  .next (s.advance.setV x (s.getV x ||| s.getV y))

/-- 8XY2, and, no flag (R165, R174). -/
def exec8XY2 (x y : Nibble) (s : State) : Host.Outcome State Fault Refusal :=
  .next (s.advance.setV x (s.getV x &&& s.getV y))

/-- 8XY3, xor, no flag (R166, R174). -/
def exec8XY3 (x y : Nibble) (s : State) : Host.Outcome State Fault Refusal :=
  .next (s.advance.setV x (s.getV x ^^^ s.getV y))

/-- 8XY4, add with carry (R167). -/
def exec8XY4 (x y : Nibble) (s : State) : Host.Outcome State Fault Refusal :=
  .next (s.advance.writeResultAndFlag Config.flagOrder x (s.getV x + s.getV y) (carryFlag (s.getV x) (s.getV y)))

/-- 8XY5, subtract (R168). -/
def exec8XY5 (x y : Nibble) (s : State) : Host.Outcome State Fault Refusal :=
  .next (s.advance.writeResultAndFlag Config.flagOrder x (s.getV x - s.getV y) (notBorrowFlag (s.getV x) (s.getV y)))

/-- 8XY6, shift right by one; VY is not read (R169, 30_encoding.md R77). -/
def exec8XY6 (x _y : Nibble) (s : State) : Host.Outcome State Fault Refusal :=
  .next (s.advance.writeResultAndFlag Config.flagOrder x (s.getV x >>> 1) (shiftRightFlag (s.getV x)))

/-- 8XY7, reverse subtract (R170). -/
def exec8XY7 (x y : Nibble) (s : State) : Host.Outcome State Fault Refusal :=
  .next (s.advance.writeResultAndFlag Config.flagOrder x (s.getV y - s.getV x) (notBorrowFlag (s.getV y) (s.getV x)))

/-- 8XYE, shift left by one; VY is not read (R171, 30_encoding.md R77). -/
def exec8XYE (x _y : Nibble) (s : State) : Host.Outcome State Fault Refusal :=
  .next (s.advance.writeResultAndFlag Config.flagOrder x (s.getV x <<< 1) (shiftLeftFlag (s.getV x)))

/-- CXNN, a free byte AND the immediate (R175). -/
def execCXNN (x : Nibble) (nn : Byte) (s : State) : Host.Outcome State Fault Refusal :=
  .next (s.advance.drawRand.2.setV x (s.advance.drawRand.1 &&& nn))

end Sys2Proof.Machine
end

