-- ==== Sys2Proof/Machine/Operands.lean ====
section
/-! DEFINITION. The operand forms that are more than a field or a register: the 12-bit address, the two computed operands
(30_encoding.md R72), the decimal digits of FX33 and the register block of FX55 and FX65. -/

namespace Sys2Proof.Machine

/-- `zext_16(NNN)` (00_scope.md R7, 30_encoding.md R72). -/
def address (nnn : Addr12) : Word := nnn.setWidth 16

/-- `zext_16(v)` of a register value. -/
def widen (b : Byte) : Word := b.setWidth 16

/-- BNNN's target `(zext_16(NNN) + zext_16(V0)) mod 2^16` (42_control_flow.md R147). -/
def jumpTarget (nnn : Addr12) (v0 : Byte) : Word := address nnn + widen v0

/-- FX29's glyph address `0x050 + 5 * zext_16(VX)`, VX not masked (44_index_memory.md R192). -/
def glyphAddress (vx : Byte) : Word := BitVec.ofNat 16 fontBase + 5 * widen vx

/-- The decimal digits FX33 stores: hundreds, tens, ones (44_index_memory.md R193). -/
def decimalDigits (vx : Byte) : List Byte :=
  [BitVec.ofNat 8 (vx.toNat / 100), BitVec.ofNat 8 (vx.toNat / 10 % 10), BitVec.ofNat 8 (vx.toNat % 10)]

/-- The values of V0 to VX, in order (44_index_memory.md R194). -/
def State.regBlock (s : State) (x : Nibble) : List Byte :=
  (List.range (x.toNat + 1)).map fun k => s.getV (BitVec.ofNat 4 k)

/-- Write a list of bytes to consecutive registers from Vk; past VF nothing is written (44_index_memory.md R195). -/
def State.setRegs (s : State) : Nat → List Byte → State
  | _, [] => s
  | k, b :: rest => if k < 16 then State.setRegs (s.setV (BitVec.ofNat 4 k) b) (k + 1) rest else s

end Sys2Proof.Machine
end

