-- ==== Sys2Proof/Machine/Control.lean ====
section
/-! DEFINITION. The control-flow family: return, jump, call, the register and immediate skips, jump plus V0
(42_control_flow.md R140 to R149). `s.advance` is the state whose PC the rules call `PC`. -/

namespace Sys2Proof.Machine

/-- 00EE, return (R140). -/
def exec00EE (s : State) : Host.Outcome State Fault Refusal :=
  match s.advance.pop with
  | none => .next (s.raise .stackUnderflow)
  | some (ret, t) => .next (t.setPc ret)

/-- 1NNN, jump (R141). -/
def exec1NNN (nnn : Addr12) (s : State) : Host.Outcome State Fault Refusal :=
  .next (s.advance.setPc (address nnn))

/-- 2NNN, call (R142): the address pushed is that of the instruction after the call. -/
def exec2NNN (nnn : Addr12) (s : State) : Host.Outcome State Fault Refusal :=
  match s.advance.push s.advance.pc with
  | none => .next (s.raise .stackOverflow)
  | some t => .next (t.setPc (address nnn))

/-- 3XNN, skip if VX equals the immediate (R143). -/
def exec3XNN (x : Nibble) (nn : Byte) (s : State) : Host.Outcome State Fault Refusal :=
  .next (s.advance.skipIf (s.getV x == nn))

/-- 4XNN, skip if VX differs from the immediate (R144). -/
def exec4XNN (x : Nibble) (nn : Byte) (s : State) : Host.Outcome State Fault Refusal :=
  .next (s.advance.skipIf (s.getV x != nn))

/-- 5XY0, skip if VX equals VY (R145). -/
def exec5XY0 (x y : Nibble) (s : State) : Host.Outcome State Fault Refusal :=
  .next (s.advance.skipIf (s.getV x == s.getV y))

/-- 9XY0, skip if VX differs from VY (R146). -/
def exec9XY0 (x y : Nibble) (s : State) : Host.Outcome State Fault Refusal :=
  .next (s.advance.skipIf (s.getV x != s.getV y))

/-- BNNN, jump plus V0 (R147). -/
def execBNNN (nnn : Addr12) (s : State) : Host.Outcome State Fault Refusal :=
  .next (s.advance.setPc (jumpTarget nnn (s.getV 0x0)))

end Sys2Proof.Machine
end

