-- ==== Sys2Proof/Machine/Display.lean ====
section
/-! DEFINITION. The display family: 00E0 and DXYN (41_display.md R120 to R125). -/

namespace Sys2Proof.Machine

/-- Every pixel off. -/
def clearedScreen : FrameBuffer := Vector.replicate 32 (Vector.replicate 64 false)

/-- `FB[y][x]` (00_scope.md R8); outside the 64 x 32 buffer there is no pixel, and this answers off. -/
def pixel (f : FrameBuffer) (y x : Nat) : Bool :=
  if h : y < 32 ∧ x < 64 then f[y][x] else false

/-- A draw in progress: the frame buffer and the collision bit `c` of R121. -/
structure Drawing where
  fb : FrameBuffer
  collision : Bool
  deriving DecidableEq, Repr

/-- One set sprite bit at column `px`, row `py`: clipped outside the buffer (R123), otherwise the pixel is toggled and a pixel
that was on is a collision (R124). -/
def drawPixel (d : Drawing) (py px : Nat) : Drawing :=
  if h : py < 32 ∧ px < 64 then
    { fb := d.fb.set py (d.fb[py].set px (!d.fb[py][px])), collision := d.collision || d.fb[py][px] }
  else d

/-- One sprite row: bit 7 first, at columns `x0` to `x0 + 7` (R121). -/
def drawRow (d : Drawing) (x0 py : Nat) (row : Byte) : Drawing :=
  (List.range 8).foldl (fun d b => if row.getLsbD (7 - b) then drawPixel d py (x0 + b) else d) d

/-- The sprite's rows, at rows `py`, `py + 1`, ... (R121). -/
def drawRows (d : Drawing) (x0 : Nat) : Nat → List Byte → Drawing
  | _, [] => d
  | py, row :: rest => drawRows (drawRow d x0 py row) x0 (py + 1) rest

/-- The draw of DXYN from state `s`: the origin wraps once (R122), rows are read from I up (R125). -/
def State.spriteDraw (s : State) (x y n : Nibble) : Drawing :=
  drawRows { fb := s.fb, collision := false } ((s.getV x).toNat % 64) ((s.getV y).toNat % 32)
    (s.mem.readList s.i.toNat n.toNat)

/-- 00E0, clear screen (R120). -/
def exec00E0 (s : State) : Host.Outcome State Fault Refusal :=
  .next (s.advance.setFb clearedScreen)

/-- DXYN, draw sprite (R121): all addresses are checked first; then the draw, and VF is written with the collision bit. -/
def execDXYN (x y n : Nibble) (s : State) : Host.Outcome State Fault Refusal :=
  match outOfRange? s.i.toNat n.toNat with
  | some a => .next (s.raise (.memoryFault a))
  | none =>
    let d := s.spriteDraw x y n
    .next ((s.advance.setFb d.fb).setV flagReg (flagByte d.collision))

end Sys2Proof.Machine
end

