-- ==== Sys2Proof/Machine/IndexMemory.lean ====
section
/-! DEFINITION. The index register and memory family: ANNN, FX1E, FX29, FX33, FX55, FX65 (44_index_memory.md R190 to R196). All
addresses of an instruction are checked before its first access (20_memory.md R54, R57). -/

namespace Sys2Proof.Machine

/-- ANNN, load I (R190). -/
def execANNN (nnn : Addr12) (s : State) : Host.Outcome State Fault Refusal :=
  .next (s.advance.setI (address nnn))

/-- FX1E, add VX to I modulo 2^16, no flag (R191). -/
def execFX1E (x : Nibble) (s : State) : Host.Outcome State Fault Refusal :=
  .next (s.advance.setI (s.i + widen (s.getV x)))

/-- FX29, point I at a font glyph (R192). -/
def execFX29 (x : Nibble) (s : State) : Host.Outcome State Fault Refusal :=
  .next (s.advance.setI (glyphAddress (s.getV x)))

/-- Store bytes at ascending addresses from I, or fault before any is stored. -/
def State.storeAtI (s : State) (bytes : List Byte) : State :=
  match outOfRange? s.i.toNat bytes.length with
  | some a => s.raise (.memoryFault a)
  | none => s.advance.setMem (s.mem.writeList s.i.toNat bytes)

/-- FX33, store the decimal digits of VX (R193). -/
def execFX33 (x : Nibble) (s : State) : Host.Outcome State Fault Refusal :=
  .next (s.storeAtI (decimalDigits (s.getV x)))

/-- FX55, store V0 to VX; I unchanged (R194, R196). -/
def execFX55 (x : Nibble) (s : State) : Host.Outcome State Fault Refusal :=
  .next (s.storeAtI (s.regBlock x))

/-- FX65, load V0 to VX; I unchanged (R195, R196). -/
def execFX65 (x : Nibble) (s : State) : Host.Outcome State Fault Refusal :=
  match outOfRange? s.i.toNat (x.toNat + 1) with
  | some a => .next (s.raise (.memoryFault a))
  | none => .next (s.advance.setRegs 0 (s.mem.readList s.i.toNat (x.toNat + 1)))

end Sys2Proof.Machine
end

