-- ==== Sys2Proof/Machine/KeypadTimers.lean ====
section
/-! DEFINITION. The keypad and timer family: EX9E, EXA1, FX07, FX0A, FX15, FX18 (45_keypad_timers.md R210 to R215). The tick that
ends the Step is `State.tick`, after these (40_cycle_engine.md R106). -/

namespace Sys2Proof.Machine

/-- Skip when the level of key VX is `level`, or fault when there is no such key (R210, R211). -/
def State.skipIfKey (s : State) (x : Nibble) (level : Bool) : State :=
  match s.key? (s.getV x) with
  | none => s.raise (.keyIndexFault (s.getV x))
  | some l => s.advance.skipIf (l == level)

/-- EX9E, skip if key VX is pressed (R210). -/
def execEX9E (x : Nibble) (s : State) : Host.Outcome State Fault Refusal :=
  .next (s.skipIfKey x true)

/-- EXA1, skip if key VX is not pressed (R211). -/
def execEXA1 (x : Nibble) (s : State) : Host.Outcome State Fault Refusal :=
  .next (s.skipIfKey x false)

/-- FX07, read the delay timer before this Step's tick (R212). -/
def execFX07 (x : Nibble) (s : State) : Host.Outcome State Fault Refusal :=
  .next (s.advance.setV x s.dt)

/-- FX0A, wait for a key: the least pressed key goes to VX; with none pressed PC is rewound by 2 and the instruction
runs again (R213). -/
def execFX0A (x : Nibble) (s : State) : Host.Outcome State Fault Refusal :=
  match s.firstKey? with
  | some k => .next (s.advance.setV x k)
  | none => .next (s.advance.setPc (s.advance.pc - 2))

/-- FX15, set the delay timer (R214). -/
def execFX15 (x : Nibble) (s : State) : Host.Outcome State Fault Refusal :=
  .next (s.advance.setDt (s.getV x))

/-- FX18, set the sound timer (R215). -/
def execFX18 (x : Nibble) (s : State) : Host.Outcome State Fault Refusal :=
  .next (s.advance.setSt (s.getV x))

end Sys2Proof.Machine
end

