-- ==== Sys2Proof/Machine/Cycle.lean ====
section
/-! DEFINITION. The cycle engine: one Step, with its outcome (40_cycle_engine.md R100 to R111). Machine/Step.lean only calls it. -/

namespace Sys2Proof.Machine

/-- The outcome of a Step (R107): an output of the block, not state (log entry 2). -/
inductive StepOutcome where
  /-- An instruction of the table executed. -/
  | ok
  /-- The word was not recognised: a diagnostic that does not change execution (R105). -/
  | unknown (op : Word)
  /-- The Step raised a fault, or the latch already held one (R108, 60_exceptions.md R237). -/
  | faulted (info : FaultInfo)
  deriving DecidableEq, Repr

/-- `Phase <- Running`, which every Step of an unfaulted machine makes, even one that faults (R109). -/
def State.beginStep (s : State) : State := s.setPhase .running

/-- The end of a Step whose instruction left `t`: the tick and `Ok`, or, when the instruction raised a fault, no tick and
`Faulted` (R100, R106, 60_exceptions.md R236). -/
def finishStep (t : State) : State × StepOutcome :=
  match t.fault with
  | some info => (t, .faulted info)
  | none => (t.tick, .ok)

/-- Execute a decoded word: an instruction of the table, or the no-op of an unrecognised word (R104, R105). -/
def executeDecoded (d : Decoded) (s : State) : Host.Outcome (State × StepOutcome) Fault Refusal :=
  match d with
  | .unknown op => .next (s.advance.tick, .unknown op)
  | .instr i =>
    match exec i s with
    | .next t => .next (finishStep t)
    | .fault f => .fault f
    | .refused r => .refused r

/-- One Step: the next state and the outcome (R100). A latched fault comes first, then a fetch fault, then the
instruction (60_exceptions.md R235). -/
def cycle (s : State) : Host.Outcome (State × StepOutcome) Fault Refusal :=
  match s.fault with
  | some info => .next (s, .faulted info)
  | none =>
    match s.fetch with
    | .error a => .next (finishStep (s.beginStep.raise (.memoryFault a)))
    | .ok op => executeDecoded (decode Config.decodeMode op) s.beginStep

/-- The next state of a Step. -/
def stepState (s : State) : Host.Outcome State Fault Refusal :=
  match cycle s with
  | .next r => .next r.1
  | .fault f => .fault f
  | .refused r => .refused r

/-- The `outcome` output of the Step taken from `s` (10_state.md R36); none only if that Step has no next state. -/
def stepOutcome (s : State) : Option StepOutcome :=
  match cycle s with
  | .next r => some r.2
  | .fault _ => none
  | .refused _ => none

/-- `s` with the low `nbits` bits of `w`, as one opcode word, where the next Step fetches: it is stored big-endian at PC. Where PC
lies past the last word the fetch needs one that does not, and then the word goes to 0x200; a latched fault, which
would keep the Step from fetching, is cleared (log entry 9). -/
def placeWord (s : State) (nbits w : Nat) : State :=
  let at_ : Word := if s.pc.toNat + 1 < memorySize then s.pc else BitVec.ofNat 16 programBase
  { s with
    mem := s.mem.writeList at_.toNat (bytesOfWord (BitVec.ofNat 16 (w % 2 ^ nbits)))
    pc := at_
    fault := none }

end Sys2Proof.Machine
end

