-- ==== Sys2Proof/Machine/Step.lean ====
section
/-! DEFINITION. The fixed names of the host: one step, and a state whose next step fetches a given word. Both only call
Machine/Cycle.lean. -/

namespace Sys2Proof.Machine

/-- One Step of the block (40_cycle_engine.md R100). It always answers a next state (R111). -/
def step (s : State) : Host.Outcome State Fault Refusal := stepState s

/-- `s` with an instruction stored where `step` fetches its next one. -/
def State.withFetchWord (s : State) (nbits w : Nat) : State := placeWord s nbits w

end Sys2Proof.Machine
end

