-- ==== Sys2Proof/Machine/Ports.lean ====
section
/-! DEFINITION. The ports the host drives between Steps (10_state.md R36, R37): the keypad, the ROM load, Reset and the outputs. The
`step` port is `step`; the `rand` port is the free byte of Config. -/

namespace Sys2Proof.Machine

/-- The host writes the keypad levels (10_state.md R30). -/
def setKeys (k : Vector Bool 16) (s : State) : State := { s with key := k }

/-- What the `load` port returns (70_reset_and_hazards.md R263). -/
inductive LoadResult where
  | ok
  /-- `LoadError` (60_exceptions.md R234): no fault, the latch is not touched. -/
  | loadError
  deriving DecidableEq, Repr

/-- `LoadROM(bytes)` (R263, R264): accepted only in phase Loadable and when the image fits; otherwise nothing changes. -/
def loadRom (bytes : List Byte) (s : State) : State × LoadResult :=
  if s.phase = .loadable ∧ programBase + bytes.length ≤ memorySize then
    ((s.setMem (s.mem.writeList programBase bytes)).setPhase .loaded, .ok)
  else (s, .loadError)

/-- Reset: construction again, the only way out of a latched fault (70_reset_and_hazards.md R265). The random source is no
state of the block, so the count of its bytes goes on (log entry 6). -/
def hostReset (s : State) : State := { State.reset with draws := s.draws }

/-- The derived output `sound_active = (ST > 0)` (10_state.md R29). The outputs `fb`, `delay_timer` and `sound_timer` are the fields
`fb`, `dt` and `st`; `outcome` is `stepOutcome`. -/
def soundActive (s : State) : Bool := decide (0 < s.st.toNat)

/-- What the host can do between Steps, and a Step itself (10_state.md R36). -/
inductive HostMove where
  | step
  | keys (k : Vector Bool 16)
  | load (bytes : List Byte)
  | reset
  deriving DecidableEq, Repr

/-- One move of the host. -/
def hostMove (m : HostMove) (s : State) : Host.Outcome State Fault Refusal :=
  match m with
  | .step => step s
  | .keys k => .next (setKeys k s)
  | .load bytes => .next (loadRom bytes s).1
  | .reset => .next (hostReset s)

end Sys2Proof.Machine
end

