-- ==== Sys2Proof/Safety.lean ====
section
/-! DEFINITION. The terms claims are written in: what a safe step is, the invariants of the machine, which states a run can reach,
and what "unchanged" means. -/

namespace Sys2Proof.Machine

/-- A safe step: it answers a next state in which no fault is latched. Every step answers a next state, so a claim that a run
goes well says this and not only "next" (log entry 1). -/
def SafeStep (s : State) : Prop := ∃ t, step s = .next t ∧ t.fault = none

/-- The instruction the Step taken from `s` fetches and decodes, none where the fetch faults or the word is not recognised.
A latched fault is not looked at. -/
def State.instrAt? (s : State) : Option Instr :=
  match s.fetch with
  | .error _ => none
  | .ok op =>
    match decode Config.decodeMode op with
    | .instr i => some i
    | .unknown _ => none

/-- What the kind of a latched fault says of the state it was raised in (60_exceptions.md R231). -/
def FaultKind.holdsAt (k : FaultKind) (s : State) : Prop :=
  match k with
  | .stackOverflow => s.sp.val = 16
  | .stackUnderflow => s.sp.val = 0
  | .memoryFault a => 0x1000 ≤ a
  | .keyIndexFault key => 0x10 ≤ key.toNat

/-- A latched fault was raised by a Step, at the instruction PC still points to, for the reason it names
(60_exceptions.md R231, R236, R237; 40_cycle_engine.md R109). -/
def LatchConsistent (s : State) : Prop :=
  ∀ f, s.fault = some f → s.phase = .running ∧ f.pc = s.pc ∧ f.op = s.opcode? ∧ f.kind.holdsAt s

/-- The states a host can bring the block to, by Steps and by the other ports (10_state.md R36, R37). -/
inductive Reachable : State → Prop where
  | reset : Reachable State.reset
  | move (m : HostMove) {s t : State} : Reachable s → hostMove m s = .next t → Reachable t

/-- The parts of the state a frame speaks of. -/
inductive Part where
  | mem | regs | i | pc | stack | sp | dt | st | fb | key | phase | fault | draws
  deriving DecidableEq, Repr

/-- A part is the same in two states. Memory is compared byte by byte, registers, stack entries and pixels one by one. -/
def Part.same (p : Part) (s t : State) : Prop :=
  match p with
  | .mem => ∀ a, t.mem.read a = s.mem.read a
  | .regs => ∀ r, t.getV r = s.getV r
  | .i => t.i = s.i
  | .pc => t.pc = s.pc
  | .stack => ∀ k, t.stackEntry k = s.stackEntry k
  | .sp => t.sp = s.sp
  | .dt => t.dt = s.dt
  | .st => t.st = s.st
  | .fb => ∀ y x, pixel t.fb y x = pixel s.fb y x
  | .key => t.key = s.key
  | .phase => t.phase = s.phase
  | .fault => t.fault = s.fault
  | .draws => t.draws = s.draws

/-- Every part of the state but the listed ones is the same in `t` as in `s`. -/
def Unchanged (changed : List Part) (s t : State) : Prop := ∀ p, p ∉ changed → p.same s t

/-- Every register but the listed ones is the same in `t` as in `s`. -/
def RegsUnchangedBut (changed : List Nibble) (s t : State) : Prop := ∀ r, r ∉ changed → t.getV r = s.getV r

end Sys2Proof.Machine
end

