-- ==== Sys2Proof/Certificates/Slice0/Obligations.lean ====
section
/-! DEFINITION. The statements for the provers, each `def Obligations.<Name> : Prop`, and the words they are written in. A docstring
names the rule of spec/ it formalises; where a clause rests on a decision the spec marks as its own (92_eei_decisions.md) or on a log
entry of this model, the docstring says so. -/

namespace Sys2Proof.Claims
open Sys2Proof.Machine

/-- `t` is `s` with the fault `k` of the instruction at `s`'s PC latched, and nothing else changed
(60_exceptions.md R236, R237). -/
def LatchesFault (s t : State) (k : FaultKind) : Prop :=
  t.fault = some { kind := k, pc := s.pc, op := s.opcode? } ∧ Unchanged [.fault] s t

/-- The fault of a block of `n` bytes at I, if some byte lies at 0x1000 or more: the lowest such address
(20_memory.md R54, 60_exceptions.md R235). -/
def pastMemory (s : State) (n : Nat) : Option FaultKind :=
  if n ≠ 0 ∧ 0x1000 < s.i.toNat + n then some (.memoryFault (max s.i.toNat 0x1000)) else none

/-- The one condition on which each instruction faults, and the fault (60_exceptions.md R231): "no other instruction and no other
condition raises a fault". -/
def faultCause (i : Instr) (s : State) : Option FaultKind :=
  match i with
  | .op00EE => if s.sp.val = 0 then some .stackUnderflow else none
  | .op2NNN _ => if s.sp.val = 16 then some .stackOverflow else none
  | .opDXYN _ _ n => pastMemory s n.toNat
  | .opFX33 _ => pastMemory s 3
  | .opFX55 x => pastMemory s (x.toNat + 1)
  | .opFX65 x => pastMemory s (x.toNat + 1)
  | .opEX9E x => if 0x10 ≤ (s.getV x).toNat then some (.keyIndexFault (s.getV x)) else none
  | .opEXA1 x => if 0x10 ≤ (s.getV x).toNat then some (.keyIndexFault (s.getV x)) else none
  | _ => none

/-- Whether the sprite of DXYN has a set bit at row `py`, column `px` of the screen: the origin wraps once, row `r` is the byte at
`I + r`, bit 7 leftmost (41_display.md R121, R122). -/
def spriteBit (s : State) (x y n : Nibble) (py px : Nat) : Bool :=
  decide ((s.getV y).toNat % 32 ≤ py ∧ py < (s.getV y).toNat % 32 + n.toNat ∧
      (s.getV x).toNat % 64 ≤ px ∧ px < (s.getV x).toNat % 64 + 8) &&
    (s.mem.read (s.i.toNat + (py - (s.getV y).toNat % 32))).getLsbD (7 - (px - (s.getV x).toNat % 64))

/-- The result `res` and the flag `f` of a flag instruction, in numbers (43_alu.md R173): for X = F, VF ends as the parameter
`P_FLAG_ORDER` says (R160; log entry 4), whichever value it has. Nothing else changes but PC. -/
def FlagResult (s t : State) (x : Nibble) (res f : Nat) : Prop :=
  (x ≠ flagReg → (t.getV x).toNat = res ∧ (t.getV flagReg).toNat = f) ∧
    (x = flagReg → Config.flagOrder = .flagLast → (t.getV flagReg).toNat = f) ∧
    (x = flagReg → Config.flagOrder = .resultLast → (t.getV flagReg).toNat = res) ∧
    RegsUnchangedBut [x, flagReg] s t ∧ t.pc = s.pc + 2 ∧ Unchanged [.regs, .pc] s t

/-- `t` is `s` past the instruction with Vx holding `v` and nothing else changed. -/
def WritesRegister (s t : State) (x : Nibble) (v : Nat) : Prop :=
  (t.getV x).toNat = v ∧ RegsUnchangedBut [x] s t ∧ t.pc = s.pc + 2 ∧ Unchanged [.regs, .pc] s t

/-- What the address `a` holds after `n` bytes, the `k`-th of them `val k`, are stored from I up in `s`. -/
def byteAfterStore (s : State) (n : Nat) (val : Nat → Byte) (a : Nat) : Byte :=
  if s.i.toNat ≤ a ∧ a < s.i.toNat + n then val (a - s.i.toNat) else s.mem.read a

/-- The digit FX33 stores at `I + k`: hundreds, tens, ones (44_index_memory.md R193). -/
def decimalDigit (v : Byte) (k : Nat) : Byte :=
  BitVec.ofNat 8 (if k = 0 then v.toNat / 100 else if k = 1 then v.toNat / 10 % 10 else v.toNat % 10)

/-- A fetch in `u` of two bytes that `u` reads as `t` does gets the word `byte` gives at PC, big-endian. -/
def FetchesAs (u t : State) (byte : Nat → Byte) : Prop :=
  u.pc.toNat + 1 < 0x1000 → u.mem.read u.pc.toNat = t.mem.read u.pc.toNat →
    u.mem.read (u.pc.toNat + 1) = t.mem.read (u.pc.toNat + 1) →
    u.fetch = .ok (wordOfBytes (byte u.pc.toNat) (byte (u.pc.toNat + 1)))

/-- The instructions that read the keypad (40_cycle_engine.md R110). -/
def readsKeypad (i : Instr) : Bool :=
  match i with
  | .opEX9E _ => true
  | .opEXA1 _ => true
  | .opFX0A _ => true
  | _ => false

/-- The instructions that may write VF: as a flag, or as their named destination (10_state.md R22). -/
def mayWriteVF (i : Instr) : Bool :=
  match i with
  | .op8XY4 _ _ => true
  | .op8XY5 _ _ => true
  | .op8XY6 _ _ => true
  | .op8XY7 _ _ => true
  | .op8XYE _ _ => true
  | .opDXYN _ _ _ => true
  | .op6XNN x _ => x == flagReg
  | .op7XNN x _ => x == flagReg
  | .op8XY0 x _ => x == flagReg
  | .op8XY1 x _ => x == flagReg
  | .op8XY2 x _ => x == flagReg
  | .op8XY3 x _ => x == flagReg
  | .opCXNN x _ => x == flagReg
  | .opFX07 x => x == flagReg
  | .opFX0A x => x == flagReg
  | .opFX65 x => x == flagReg
  | _ => false

end Sys2Proof.Claims

open Sys2Proof Sys2Proof.Machine Sys2Proof.Claims

/-! ### Encoding and decoding -/

/-- Words written out from the patterns of 30_encoding.md R75, one a family, decode to the instructions they stand for, under both
values of `P_DECODE`; a word of no row in any mode does not. -/
def Obligations.SampleWordsDecode : Prop :=
  ∀ m : DecodeMode,
    decode m 0x00E0 = .instr .op00E0 ∧ decode m 0x00EE = .instr .op00EE ∧
    decode m 0x1234 = .instr (.op1NNN 0x234) ∧ decode m 0x2FED = .instr (.op2NNN 0xFED) ∧
    decode m 0x3A10 = .instr (.op3XNN 0xA 0x10) ∧ decode m 0x4B2C = .instr (.op4XNN 0xB 0x2C) ∧
    decode m 0x5120 = .instr (.op5XY0 0x1 0x2) ∧ decode m 0x6A42 = .instr (.op6XNN 0xA 0x42) ∧
    decode m 0x71FF = .instr (.op7XNN 0x1 0xFF) ∧ decode m 0x8CDE = .instr (.op8XYE 0xC 0xD) ∧
    decode m 0x9340 = .instr (.op9XY0 0x3 0x4) ∧ decode m 0xA300 = .instr (.opANNN 0x300) ∧
    decode m 0xB201 = .instr (.opBNNN 0x201) ∧ decode m 0xC30F = .instr (.opCXNN 0x3 0x0F) ∧
    decode m 0xD125 = .instr (.opDXYN 0x1 0x2 0x5) ∧ decode m 0xE5A1 = .instr (.opEXA1 0x5) ∧
    decode m 0xF265 = .instr (.opFX65 0x2) ∧ decode m 0x8128 = .unknown 0x8128

/-- Decode of encode is the instruction, for every instruction, every value of its fields and both values of `P_DECODE`, from the
word and from the bytes in front of any others (30_encoding.md sections 1 to 3). -/
def Obligations.DecodeOfEncodeIsTheInstruction : Prop :=
  ∀ (m : DecodeMode) (i : Instr) (rest : List Byte),
    decode m (encode i) = .instr i ∧ decodeBytes m (encodeBytes i ++ rest) = .ok (.instr i, rest)

/-- A word the STRICT reading decodes is the encoding of the instruction it decodes to: no bit of a recognised word is dropped
(30_encoding.md section 3). -/
def Obligations.EncodeOfStrictDecodeIsTheWord : Prop :=
  ∀ (w : Word) (i : Instr), decode .strict w = .instr i → encode i = w

/-- `P_DECODE = STRICT` (30_encoding.md section 4; the spec's decision D2): a word is recognised exactly when it matches a row of the
field-value table, the instruction is that row's, and any other word is unknown. -/
def Obligations.StrictDecodeRecognisesExactlyTheRows : Prop :=
  ∀ w : Word,
    ((∃ i, decode .strict w = .instr i) ↔ ∃ r ∈ opcodeRows, r.matchesWord w = true) ∧
    (∀ i, decode .strict w = .instr i → (rowOf i).matchesWord w = true) ∧
    ((∀ r ∈ opcodeRows, r.matchesWord w = false) → decode .strict w = .unknown w)

/-- `P_DECODE = FAMILY` (30_encoding.md section 4; the spec's decision D2): family 0 by the low byte alone, families 5 and 9 by the top
nibble alone, the other families as in STRICT. -/
def Obligations.FamilyDecodeReadsTheProseFields : Prop :=
  ∀ w : Word,
    (opFamily w = 0x0 → decode .family w =
      if fieldNN w = 0xE0 then .instr .op00E0 else if fieldNN w = 0xEE then .instr .op00EE else .unknown w) ∧
    (opFamily w = 0x5 → decode .family w = .instr (.op5XY0 (fieldX w) (fieldY w))) ∧
    (opFamily w = 0x9 → decode .family w = .instr (.op9XY0 (fieldX w) (fieldY w))) ∧
    (opFamily w ≠ 0x0 → opFamily w ≠ 0x5 → opFamily w ≠ 0x9 → decode .family w = decode .strict w)

/-- "No two rows match the same word" (30_encoding.md R75, which the spec derives from the patterns). -/
def Obligations.NoTwoRowsMatchTheSameWord : Prop :=
  ∀ (w : Word) (r r' : OpcodeRow), r ∈ opcodeRows → r' ∈ opcodeRows →
    r.matchesWord w = true → r'.matchesWord w = true → r = r'

/-! ### The Step -/

/-- When the bytes at PC decode to an instruction, a Step of an unfaulted machine is that instruction's meaning in the state with
the phase Running, and then the tick of both timers unless the instruction latched a fault; its outcome is Ok, or Faulted with
the fault the instruction latched (40_cycle_engine.md R100, R107; that a fault takes no tick is the spec's decision D10, the phase its
decision D16, the outcomes its decisions D18 and D31; that the outcome is a function of the state is log entry 2). -/
def Obligations.StepRunsTheDecodedInstruction : Prop :=
  ∀ (s : State) (i : Instr), s.fault = none → s.pc.toNat + 1 < 0x1000 → i.wellFormed = true →
    decode Config.decodeMode (wordOfBytes (s.mem.read s.pc.toNat) (s.mem.read (s.pc.toNat + 1))) = .instr i →
    (step s =
      match exec i (s.setPhase .running) with
      | .next t => .next (if t.fault = none then t.tick else t)
      | .fault f => .fault f
      | .refused r => .refused r) ∧
    ∀ t, exec i (s.setPhase .running) = .next t →
      (t.fault = none → stepOutcome s = some .ok) ∧ ∀ f, t.fault = some f → stepOutcome s = some (.faulted f)

/-- An unrecognised word does nothing: PC advances by 2, the timers tick, the outcome reports the word (40_cycle_engine.md, unknown
opcode; the spec's decision D18). -/
def Obligations.UnknownWordOnlyAdvancesAndTicks : Prop :=
  ∀ (s : State) (op : Word), s.fault = none → s.fetch = .ok op → decode Config.decodeMode op = .unknown op →
    ∃ t, step s = .next t ∧ stepOutcome s = some (.unknown op) ∧ t.pc = s.pc + 2 ∧ t.dt.toNat = s.dt.toNat - 1 ∧
      t.st.toNat = s.st.toNat - 1 ∧ t.phase = .running ∧ Unchanged [.pc, .dt, .st, .phase] s t

/-- A fetch that would leave Memory faults with the lowest address outside and no opcode, and fetches nothing
(20_memory.md, alignment; the spec's decisions D5, D6 and D10). -/
def Obligations.FetchPastMemoryLatchesAFault : Prop :=
  ∀ s : State, s.fault = none → 0x0FFF ≤ s.pc.toNat →
    ∃ t, step s = .next t ∧ t.phase = .running ∧ Unchanged [.fault, .phase] s t ∧
      t.fault = some { kind := .memoryFault (if 0x1000 ≤ s.pc.toNat then s.pc.toNat else 0x1000), pc := s.pc, op := none }

/-- A Step of a faulted machine changes nothing and returns the latched fault (40_cycle_engine.md, the Step; the spec's decision D10;
that it is a next state is log entry 1). -/
def Obligations.LatchedStepChangesNothing : Prop :=
  ∀ (s : State) (f : FaultInfo), s.fault = some f → step s = .next s ∧ stepOutcome s = some (.faulted f)

/-- Fault entry is precise: when a Step latches a fault, whatever it was doing, only the latch and the phase change, and the latch
holds the instruction's address and opcode (60_exceptions.md section 2; the spec's decisions D10 and D31). -/
def Obligations.FaultEntryIsPrecise : Prop :=
  ∀ (s t : State) (f : FaultInfo), s.fault = none → step s = .next t → t.fault = some f →
    t = { s with fault := some f, phase := .running } ∧ f.pc = s.pc ∧ f.op = s.opcode? ∧
      stepOutcome s = some (.faulted f)

/-- Every instruction, from every unfaulted state, answers a next state, and has latched a fault exactly when its own condition
holds, which is the table's (60_exceptions.md section 1; the spec's decisions D5, D9, D13, D31). -/
def Obligations.FaultsHaveExactlyTheirCauses : Prop :=
  ∀ (i : Instr) (s : State), s.fault = none →
    ∃ t, exec i s = .next t ∧
      t.fault = (faultCause i s).map (fun k => { kind := k, pc := s.pc, op := s.opcode? })

/-- A Step is available at every state: it always answers a next state, never a stop of the host interface
(40_cycle_engine.md section 1, run; log entry 1). -/
def Obligations.EveryStateHasAStep : Prop := ∀ s : State, ∃ t, step s = .next t

/-- R106, the timer tick: after every instruction that completes, each timer is one less than the instruction left it and stops
at 0; FX15 and FX18 values are already decremented, FX07 reads DT before; a Step that faults does not tick. -/
def Obligations.TimersTickOncePerStep : Prop :=
  ∀ s t : State, s.fault = none → step s = .next t →
    (t.fault ≠ none → t.dt = s.dt ∧ t.st = s.st) ∧
    (t.fault = none →
      ((∀ x, s.instrAt? ≠ some (.opFX15 x)) → t.dt.toNat = s.dt.toNat - 1) ∧
      ((∀ x, s.instrAt? ≠ some (.opFX18 x)) → t.st.toNat = s.st.toNat - 1) ∧
      (∀ x, s.instrAt? = some (.opFX15 x) → t.dt.toNat = (s.getV x).toNat - 1) ∧
      (∀ x, s.instrAt? = some (.opFX18 x) → t.st.toNat = (s.getV x).toNat - 1) ∧
      (∀ x, s.instrAt? = some (.opFX07 x) → t.getV x = s.dt))

/-! ### Invariants -/

/-- Every Step keeps Memory canonical, from every canonical state (log entry 8; R50's 4096 addresses are never left). -/
def Obligations.StepKeepsMemoryCanonical : Prop :=
  ∀ s t : State, s.mem.wf = true → step s = .next t → t.mem.wf = true

/-- Every Step keeps the latch consistent: a latched fault belongs to the instruction PC points to and names a condition that holds
(60_exceptions.md sections 1 and 2; the spec's decisions D10, D16, D31). -/
def Obligations.StepKeepsTheLatchConsistent : Prop :=
  ∀ s t : State, LatchConsistent s → step s = .next t → LatchConsistent t

/-- The reset state satisfies both invariants. -/
def Obligations.ResetStateSatisfiesTheInvariants : Prop :=
  State.reset.mem.wf = true ∧ LatchConsistent State.reset

/-- Every state a host can bring the block to, by any mix of Steps, key changes, ROM loads and Resets, has canonical memory and a
consistent latch (10_state.md section 10; the invariants as above). -/
def Obligations.ReachableStatesSatisfyTheInvariants : Prop :=
  ∀ s : State, Reachable s → s.mem.wf = true ∧ LatchConsistent s

/-! ### Rules about every Step -/

/-- The frame buffer is "mutated only by the clear-screen and sprite-draw opcodes" (10_state.md section 7). -/
def Obligations.OnlyDisplayInstructionsChangePixels : Prop :=
  ∀ s t : State, step s = .next t → t.fb ≠ s.fb →
    s.instrAt? = some .op00E0 ∨ ∃ x y n, s.instrAt? = some (.opDXYN x y n)

/-- No instruction but 2NNN and 00EE writes the call stack or its depth (10_state.md section 4). -/
def Obligations.OnlyCallAndReturnChangeTheStack : Prop :=
  ∀ s t : State, step s = .next t → (t.sp ≠ s.sp ∨ t.stack ≠ s.stack) →
    s.instrAt? = some .op00EE ∨ ∃ nnn, s.instrAt? = some (.op2NNN nnn)

/-- A Step changes no byte of Memory but those FX33 and FX55 store to: I to I+2, and I to I+X (20_memory.md section 2). -/
def Obligations.MemoryChangesOnlyWhereAStoreGoes : Prop :=
  ∀ (s t : State) (a : Nat), step s = .next t → t.mem.read a ≠ s.mem.read a →
    (∃ x, s.instrAt? = some (.opFX33 x) ∧ s.i.toNat ≤ a ∧ a ≤ s.i.toNat + 2) ∨
      ∃ x, s.instrAt? = some (.opFX55 x) ∧ s.i.toNat ≤ a ∧ a ≤ s.i.toNat + x.toNat

/-- VF changes only in an instruction that writes it as a flag, or names it as its destination (10_state.md section 1, which the spec
derives). -/
def Obligations.VFChangesOnlyAsFlagOrDestination : Prop :=
  ∀ s t : State, step s = .next t → t.getV flagReg ≠ s.getV flagReg → ∃ i, s.instrAt? = some i ∧ mayWriteVF i = true

/-- The keypad is an input: no Step writes it, and one whose instruction is not EX9E, EXA1 or FX0A does the same whatever the keys
are (10_state.md section 6, 40_cycle_engine.md section 1; that it is a field of State is log entry 7). -/
def Obligations.KeypadIsReadOnlyByKeyInstructions : Prop :=
  (∀ s t : State, step s = .next t → t.key = s.key) ∧
    ∀ (s : State) (k : Vector Bool 16), (∀ i, s.instrAt? = some i → readsKeypad i = false) →
      ∃ t, step s = .next t ∧ step (setKeys k s) = .next (setKeys k t)

/-- The sound timer is read by no instruction: changing it changes nothing in a Step but itself (10_state.md section 5). -/
def Obligations.SoundTimerInfluencesNothing : Prop :=
  ∀ (s : State) (b : Byte), ∃ (t : State) (c : Byte), step s = .next t ∧ step (s.setSt b) = .next (t.setSt c)

/-- A Step draws one random byte when it executes CXNN and none otherwise (40_cycle_engine.md section 1; the spec's decision D19; the
count is the model's own, log entry 6). -/
def Obligations.OnlyCXNNDrawsARandomByte : Prop :=
  ∀ s t : State, s.fault = none → step s = .next t →
    ((∃ x nn, s.instrAt? = some (.opCXNN x nn)) → t.draws = s.draws + 1) ∧
      ((∀ x nn, s.instrAt? ≠ some (.opCXNN x nn)) → t.draws = s.draws)

/-- The first Step, and every other of an unfaulted machine, leaves the phase Running, even if it faults (40_cycle_engine.md section 1;
the spec's decision D16). -/
def Obligations.StepLeavesThePhaseRunning : Prop :=
  ∀ s t : State, s.fault = none → step s = .next t → t.phase = .running

/-! ### Display -/

/-- 00E0 turns every pixel off and changes nothing else but PC (41_display.md, 00E0). -/
def Obligations.ClearScreenTurnsEveryPixelOff : Prop :=
  ∀ s : State, ∃ t, exec .op00E0 s = .next t ∧ (∀ y x, y < 32 → x < 64 → pixel t.fb y x = false) ∧
    t.pc = s.pc + 2 ∧ Unchanged [.fb, .pc] s t

/-- DXYN whose rows lie inside Memory: every pixel of the screen is its old value xor the sprite's bit there, VF is 1 exactly when
some set bit met a pixel that was on, and nothing else changes but PC; pixels past the edge are clipped (41_display.md, DXYN; the
spec's decisions D3 and D12). N = 0 draws nothing, whatever I is. -/
def Obligations.SpriteDrawXorsThePixels : Prop :=
  ∀ (s : State) (x y n : Nibble), (n = 0 ∨ s.i.toNat + n.toNat ≤ 0x1000) →
    ∃ t, exec (.opDXYN x y n) s = .next t ∧
      (∀ py px, py < 32 → px < 64 → pixel t.fb py px = (pixel s.fb py px ^^ spriteBit s x y n py px)) ∧
      ((∃ py px, py < 32 ∧ px < 64 ∧ spriteBit s x y n py px = true ∧ pixel s.fb py px = true) → t.getV flagReg = 1) ∧
      ((∀ py px, py < 32 → px < 64 → spriteBit s x y n py px = true → pixel s.fb py px = false) → t.getV flagReg = 0) ∧
      RegsUnchangedBut [flagReg] s t ∧ t.pc = s.pc + 2 ∧ Unchanged [.fb, .regs, .pc] s t

/-- Drawing the same sprite twice restores the frame buffer, and the second draw collides exactly when it turns a pixel off that the
first turned on (95_test_vectors.md S5, the source's testable property; the spec's decision D12). -/
def Obligations.DrawingTwiceRestoresTheScreen : Prop :=
  ∀ (s : State) (x y n : Nibble), x ≠ flagReg → y ≠ flagReg → (n = 0 ∨ s.i.toNat + n.toNat ≤ 0x1000) →
    ∃ t u, exec (.opDXYN x y n) s = .next t ∧ exec (.opDXYN x y n) t = .next u ∧ u.fb = s.fb ∧
      (u.getV flagReg = 1 ↔ ∃ py px, py < 32 ∧ px < 64 ∧ spriteBit s x y n py px = true ∧ pixel s.fb py px = false)

/-! ### Control flow -/

/-- 1NNN and BNNN set PC and nothing else, whatever the target; BNNN's sum never wraps (42_control_flow.md, 1NNN and BNNN). -/
def Obligations.JumpsSetOnlyPc : Prop :=
  ∀ (s : State) (nnn : Addr12),
    rowOf (.op1NNN nnn) = ⟨"1NNN", 0x1000, 0xF000⟩ ∧ rowOf (.opBNNN nnn) = ⟨"BNNN", 0xB000, 0xF000⟩ ∧
    (∃ t, exec (.op1NNN nnn) s = .next t ∧ t.pc.toNat = nnn.toNat ∧ Unchanged [.pc] s t) ∧
    ∃ t, exec (.opBNNN nnn) s = .next t ∧ t.pc.toNat = nnn.toNat + (s.getV 0x0).toNat ∧ Unchanged [.pc] s t

/-- 2NNN pushes the address after itself and jumps, with fewer than 16 entries held (42_control_flow.md, 2NNN). Only the entry at the
old depth is written. -/
def Obligations.CallPushesTheReturnAddress : Prop :=
  ∀ (s : State) (nnn : Addr12), s.sp.val < 16 →
    ∃ t, exec (.op2NNN nnn) s = .next t ∧ t.pc.toNat = nnn.toNat ∧ t.sp.val = s.sp.val + 1 ∧
      t.stackEntry s.sp.val = s.pc + 2 ∧ (∀ k, k ≠ s.sp.val → t.stackEntry k = s.stackEntry k) ∧
      Unchanged [.pc, .sp, .stack] s t

/-- 00EE pops the top entry into PC, with an entry held; no entry is cleared (42_control_flow.md, 00EE; that the entry keeps its value is
the spec's decision D28). -/
def Obligations.ReturnPopsTheCallStack : Prop :=
  ∀ s : State, 0 < s.sp.val →
    ∃ t, exec .op00EE s = .next t ∧ t.pc = s.stackEntry (s.sp.val - 1) ∧ t.sp.val = s.sp.val - 1 ∧
      Unchanged [.pc, .sp] s t

/-- The seventeenth call and the return with nothing held latch their faults and change nothing else
(60_exceptions.md section 1; the spec's decision D9). -/
def Obligations.StackFaultsLatch : Prop :=
  ∀ (s : State) (nnn : Addr12), s.fault = none →
    (s.sp.val = 16 → ∃ t, exec (.op2NNN nnn) s = .next t ∧ LatchesFault s t .stackOverflow) ∧
      (s.sp.val = 0 → ∃ t, exec .op00EE s = .next t ∧ LatchesFault s t .stackUnderflow)

/-- A call and then a return come back to the instruction after the call, with the depth as it was (95_test_vectors.md S6, the source's
testable property). -/
def Obligations.CallThenReturnResumesAfterTheCall : Prop :=
  ∀ (s : State) (nnn : Addr12), s.sp.val < 16 →
    ∃ t u, exec (.op2NNN nnn) s = .next t ∧ exec .op00EE t = .next u ∧ u.pc = s.pc + 2 ∧ u.sp = s.sp ∧
      Unchanged [.pc, .stack] s u

/-- The immediate skips pass over one word exactly when their condition holds, and change PC only (R143, R144). -/
def Obligations.ImmediateSkipsPassOneWord : Prop :=
  ∀ (s : State) (x : Nibble) (nn : Byte),
    rowOf (.op3XNN x nn) = ⟨"3XNN", 0x3000, 0xF000⟩ ∧ rowOf (.op4XNN x nn) = ⟨"4XNN", 0x4000, 0xF000⟩ ∧
    (∃ t, exec (.op3XNN x nn) s = .next t ∧ t.pc = (if s.getV x = nn then s.pc + 4 else s.pc + 2) ∧ Unchanged [.pc] s t) ∧
    ∃ t, exec (.op4XNN x nn) s = .next t ∧ t.pc = (if s.getV x = nn then s.pc + 2 else s.pc + 4) ∧ Unchanged [.pc] s t

/-- The register skips pass over one word exactly when their condition holds, and change PC only; with X = Y, 5XY0 always skips and
9XY0 never (42_control_flow.md, 5XY0 and 9XY0). -/
def Obligations.RegisterSkipsPassOneWord : Prop :=
  ∀ (s : State) (x y : Nibble),
    (∃ t, exec (.op5XY0 x y) s = .next t ∧ t.pc = (if s.getV x = s.getV y then s.pc + 4 else s.pc + 2) ∧
      Unchanged [.pc] s t) ∧
    ∃ t, exec (.op9XY0 x y) s = .next t ∧ t.pc = (if s.getV x = s.getV y then s.pc + 2 else s.pc + 4) ∧
      Unchanged [.pc] s t

/-! ### ALU -/

/-- 6XNN, 7XNN and 8XY0 write VX and nothing else but PC; 7XNN wraps modulo 256 and records no carry (R161, R162, R163). -/
def Obligations.LoadsAddAndMoveWriteOnlyVX : Prop :=
  ∀ (s : State) (x y : Nibble) (nn : Byte),
    rowOf (.op6XNN x nn) = ⟨"6XNN", 0x6000, 0xF000⟩ ∧ rowOf (.op7XNN x nn) = ⟨"7XNN", 0x7000, 0xF000⟩ ∧
    rowOf (.op8XY0 x y) = ⟨"8XY0", 0x8000, 0xF00F⟩ ∧
    (∃ t, exec (.op6XNN x nn) s = .next t ∧ WritesRegister s t x nn.toNat) ∧
    (∃ t, exec (.op7XNN x nn) s = .next t ∧ WritesRegister s t x (((s.getV x).toNat + nn.toNat) % 256)) ∧
    ∃ t, exec (.op8XY0 x y) s = .next t ∧ WritesRegister s t x (s.getV y).toNat

/-- 8XY1, 8XY2 and 8XY3 write VX and nothing else but PC, bit by bit; VF is left alone unless it is VX (43_alu.md section 3; the spec's
decision D21). -/
def Obligations.LogicWritesOnlyVX : Prop :=
  ∀ (s : State) (x y : Nibble),
    (∃ t, exec (.op8XY1 x y) s = .next t ∧ WritesRegister s t x ((s.getV x).toNat ||| (s.getV y).toNat)) ∧
    (∃ t, exec (.op8XY2 x y) s = .next t ∧ WritesRegister s t x ((s.getV x).toNat &&& (s.getV y).toNat)) ∧
    ∃ t, exec (.op8XY3 x y) s = .next t ∧ WritesRegister s t x ((s.getV x).toNat ^^^ (s.getV y).toNat)

/-- 8XY4: VX is the sum modulo 256 and VF is 1 exactly when the unwrapped sum exceeds 255 (43_alu.md, 8XY4). For X = F the
spec leaves the order of the writes open: the parameter of its decision D4, taken at either value (log entry 4). -/
def Obligations.AddWritesSumAndCarry : Prop :=
  ∀ (s : State) (x y : Nibble),
    rowOf (.op8XY4 x y) = ⟨"8XY4", 0x8004, 0xF00F⟩ ∧
    ∃ t, exec (.op8XY4 x y) s = .next t ∧
      FlagResult s t x (((s.getV x).toNat + (s.getV y).toNat) % 256)
        (if 255 < (s.getV x).toNat + (s.getV y).toNat then 1 else 0)

/-- 8XY5 and 8XY7: VX is the difference modulo 256 and VF is 0 exactly when there is a borrow, from the values before the
instruction (43_alu.md, 8XY5 and 8XY7). For X = F: the parameter of the spec's decision D4, at either value (log entry 4). -/
def Obligations.SubtractsWriteDifferenceAndNotBorrow : Prop :=
  ∀ (s : State) (x y : Nibble),
    rowOf (.op8XY5 x y) = ⟨"8XY5", 0x8005, 0xF00F⟩ ∧ rowOf (.op8XY7 x y) = ⟨"8XY7", 0x8007, 0xF00F⟩ ∧
    (∃ t, exec (.op8XY5 x y) s = .next t ∧
      FlagResult s t x (((s.getV x).toNat + 256 - (s.getV y).toNat) % 256)
        (if (s.getV x).toNat < (s.getV y).toNat then 0 else 1)) ∧
    ∃ t, exec (.op8XY7 x y) s = .next t ∧
      FlagResult s t x (((s.getV y).toNat + 256 - (s.getV x).toNat) % 256)
        (if (s.getV y).toNat < (s.getV x).toNat then 0 else 1)

/-- 8XY6 and 8XYE: VX is halved, or doubled modulo 256, and VF is the bit shifted out; Y changes nothing (43_alu.md, 8XY6 and
8XYE). For X = F: the parameter of the spec's decision D4, at either value (log entry 4). -/
def Obligations.ShiftsWriteResultAndTheBitShiftedOut : Prop :=
  ∀ (s : State) (x y : Nibble),
    rowOf (.op8XY6 x y) = ⟨"8XY6", 0x8006, 0xF00F⟩ ∧ rowOf (.op8XYE x y) = ⟨"8XYE", 0x800E, 0xF00F⟩ ∧
    (∃ t, exec (.op8XY6 x y) s = .next t ∧ FlagResult s t x ((s.getV x).toNat / 2) ((s.getV x).toNat % 2)) ∧
    ∃ t, exec (.op8XYE x y) s = .next t ∧
      FlagResult s t x ((s.getV x).toNat * 2 % 256) ((s.getV x).toNat / 128)

/-- CXNN draws one free byte and writes it ANDed with NN to VX, whatever the byte is (43_alu.md section 4; the spec's decision D19; the
form of the free byte is log entry 6). -/
def Obligations.RandomByteIsMaskedIntoVX : Prop :=
  ∀ (s : State) (x : Nibble) (nn : Byte),
    ∃ t, exec (.opCXNN x nn) s = .next t ∧ (t.getV x).toNat = (Config.randByte s.draws).toNat &&& nn.toNat ∧
      t.draws = s.draws + 1 ∧ RegsUnchangedBut [x] s t ∧ t.pc = s.pc + 2 ∧ Unchanged [.regs, .pc, .draws] s t

/-! ### Index register and memory -/

/-- ANNN loads I with the 12-bit address and changes nothing else but PC (R190). -/
def Obligations.LoadIndexWritesOnlyI : Prop :=
  ∀ (s : State) (nnn : Addr12),
    rowOf (.opANNN nnn) = ⟨"ANNN", 0xA000, 0xF000⟩ ∧
    ∃ t, exec (.opANNN nnn) s = .next t ∧ t.i.toNat = nnn.toNat ∧ t.pc = s.pc + 2 ∧ Unchanged [.i, .pc] s t

/-- FX1E adds VX to I modulo 2^16 and sets no flag; FX29 sets I to 0x050 + 5 * VX, unmasked (44_index_memory.md, FX1E and FX29; the spec's
decision D8). -/
def Obligations.IndexArithmeticWritesOnlyI : Prop :=
  ∀ (s : State) (x : Nibble),
    (∃ t, exec (.opFX1E x) s = .next t ∧ t.i.toNat = (s.i.toNat + (s.getV x).toNat) % 65536 ∧ t.pc = s.pc + 2 ∧
      Unchanged [.i, .pc] s t) ∧
    ∃ t, exec (.opFX29 x) s = .next t ∧ t.i.toNat = 0x050 + 5 * (s.getV x).toNat ∧ t.pc = s.pc + 2 ∧
      Unchanged [.i, .pc] s t

/-- FX33 stores hundreds, tens and ones of VX at I, I+1, I+2, when they lie inside Memory, and changes no other byte and nothing
else but PC (44_index_memory.md, FX33). Memory canonical: an invariant of the model (log entry 8). -/
def Obligations.DecimalDigitsAreStored : Prop :=
  ∀ (s : State) (x : Nibble), s.mem.wf = true → s.i.toNat + 3 ≤ 0x1000 →
    ∃ t, exec (.opFX33 x) s = .next t ∧
      (t.mem.read s.i.toNat).toNat = (s.getV x).toNat / 100 ∧
      (t.mem.read (s.i.toNat + 1)).toNat = (s.getV x).toNat / 10 % 10 ∧
      (t.mem.read (s.i.toNat + 2)).toNat = (s.getV x).toNat % 10 ∧
      (∀ a, a < s.i.toNat ∨ s.i.toNat + 3 ≤ a → t.mem.read a = s.mem.read a) ∧
      t.pc = s.pc + 2 ∧ Unchanged [.mem, .pc] s t

/-- FX55 stores V0 to VX at I to I+X, when they lie inside Memory, and changes no other byte and nothing else but PC; I is unchanged
(44_index_memory.md, FX55). Memory canonical: an invariant of the model (log entry 8). -/
def Obligations.RegistersAreStored : Prop :=
  ∀ (s : State) (x : Nibble), s.mem.wf = true → s.i.toNat + x.toNat + 1 ≤ 0x1000 →
    ∃ t, exec (.opFX55 x) s = .next t ∧
      (∀ r : Nibble, r.toNat ≤ x.toNat → t.mem.read (s.i.toNat + r.toNat) = s.getV r) ∧
      (∀ a, a < s.i.toNat ∨ s.i.toNat + x.toNat < a → t.mem.read a = s.mem.read a) ∧
      t.pc = s.pc + 2 ∧ Unchanged [.mem, .pc] s t

/-- FX65 loads V0 to VX from I to I+X, when they lie inside Memory; registers above VX, I, Memory and everything else but PC are
unchanged (44_index_memory.md, FX65). -/
def Obligations.RegistersAreLoaded : Prop :=
  ∀ (s : State) (x : Nibble), s.i.toNat + x.toNat + 1 ≤ 0x1000 →
    ∃ t, exec (.opFX65 x) s = .next t ∧
      (∀ r : Nibble, r.toNat ≤ x.toNat → t.getV r = s.mem.read (s.i.toNat + r.toNat)) ∧
      (∀ r : Nibble, x.toNat < r.toNat → t.getV r = s.getV r) ∧
      t.pc = s.pc + 2 ∧ Unchanged [.regs, .pc] s t

/-- DXYN, FX33, FX55 and FX65 that would leave Memory latch the lowest address outside, and nothing is drawn, stored or loaded
(20_memory.md sections 2 and 3; the spec's decisions D5, D10 and D11). -/
def Obligations.AccessesPastMemoryLatchAFault : Prop :=
  ∀ (s : State) (x y n : Nibble), s.fault = none →
    (n ≠ 0 → 0x1000 < s.i.toNat + n.toNat →
      ∃ t, exec (.opDXYN x y n) s = .next t ∧ LatchesFault s t (.memoryFault (max s.i.toNat 0x1000))) ∧
    (0x1000 < s.i.toNat + 3 →
      ∃ t, exec (.opFX33 x) s = .next t ∧ LatchesFault s t (.memoryFault (max s.i.toNat 0x1000))) ∧
    (0x1000 < s.i.toNat + x.toNat + 1 →
      (∃ t, exec (.opFX55 x) s = .next t ∧ LatchesFault s t (.memoryFault (max s.i.toNat 0x1000))) ∧
      ∃ t, exec (.opFX65 x) s = .next t ∧ LatchesFault s t (.memoryFault (max s.i.toNat 0x1000)))

/-- Every byte FX33 or FX55 stores is what a later fetch gets from its address, for every VX and X and wherever it lies, the next Step's
fetch included: after the store, in any state whose two bytes at PC are still those the store left, the opcode fetched is made of
the stored bytes where the store went and of the old bytes elsewhere (20_memory.md section 3; the spec's decision D23). Memory
canonical: an invariant of the model (log entry 8). -/
def Obligations.StoredCodeIsFetchedNext : Prop :=
  ∀ (s : State) (x : Nibble), s.mem.wf = true →
    (s.i.toNat + 3 ≤ 0x1000 →
      ∃ t, exec (.opFX33 x) s = .next t ∧ t.pc = s.pc + 2 ∧
        ∀ u, FetchesAs u t (byteAfterStore s 3 (decimalDigit (s.getV x)))) ∧
    (s.i.toNat + x.toNat + 1 ≤ 0x1000 →
      ∃ t, exec (.opFX55 x) s = .next t ∧ t.pc = s.pc + 2 ∧
        ∀ u, FetchesAs u t (byteAfterStore s (x.toNat + 1) (fun k => s.getV (BitVec.ofNat 4 k))))

/-! ### Keypad and timers -/

/-- EX9E and EXA1 skip one word on the level of key VX, and latch KeyIndexFault when VX is 0x10 or more
(45_keypad_timers.md, EX9E and EXA1; the spec's decision D13). -/
def Obligations.KeySkipsReadTheLevelOfKeyVX : Prop :=
  ∀ (s : State) (x : Nibble),
    (∀ h : (s.getV x).toNat < 16,
      (∃ t, exec (.opEX9E x) s = .next t ∧ t.pc = (if s.key[(s.getV x).toNat] then s.pc + 4 else s.pc + 2) ∧
        Unchanged [.pc] s t) ∧
      ∃ t, exec (.opEXA1 x) s = .next t ∧ t.pc = (if s.key[(s.getV x).toNat] then s.pc + 2 else s.pc + 4) ∧
        Unchanged [.pc] s t) ∧
    (16 ≤ (s.getV x).toNat → s.fault = none →
      (∃ t, exec (.opEX9E x) s = .next t ∧ LatchesFault s t (.keyIndexFault (s.getV x))) ∧
      ∃ t, exec (.opEXA1 x) s = .next t ∧ LatchesFault s t (.keyIndexFault (s.getV x)))

/-- FX0A writes the least pressed key to VX; with no key pressed PC stays at the instruction and nothing changes
(45_keypad_timers.md, FX0A; the spec's decision D33). -/
def Obligations.WaitForKeyTakesTheLeastPressedKey : Prop :=
  ∀ (s : State) (x : Nibble),
    (∀ k : Fin 16, s.key[k] = true → (∀ j : Fin 16, j < k → s.key[j] = false) →
      ∃ t, exec (.opFX0A x) s = .next t ∧ WritesRegister s t x k.val) ∧
    ((∀ k : Fin 16, s.key[k] = false) → ∃ t, exec (.opFX0A x) s = .next t ∧ Unchanged [] s t)

/-- FX07 reads DT; FX15 and FX18 set DT and ST, and the tick of the same Step leaves one less, so that after FX18 `sound_active` is
1 exactly when VX was 2 or more (R214, R215; FX07 as 45_keypad_timers.md states it). -/
def Obligations.TimerInstructionsMoveTheTimers : Prop :=
  ∀ (s : State) (x : Nibble),
    rowOf (.opFX15 x) = ⟨"FX15", 0xF015, 0xF0FF⟩ ∧ rowOf (.opFX18 x) = ⟨"FX18", 0xF018, 0xF0FF⟩ ∧
    (∃ t, exec (.opFX07 x) s = .next t ∧ WritesRegister s t x s.dt.toNat) ∧
    (∃ t, exec (.opFX15 x) s = .next t ∧ t.dt = s.getV x ∧ t.tick.dt.toNat = (s.getV x).toNat - 1 ∧ t.pc = s.pc + 2 ∧
      Unchanged [.dt, .pc] s t) ∧
    ∃ t, exec (.opFX18 x) s = .next t ∧ t.st = s.getV x ∧ t.tick.st.toNat = (s.getV x).toNat - 1 ∧
      (soundActive t.tick = true ↔ 2 ≤ (s.getV x).toNat) ∧ t.pc = s.pc + 2 ∧ Unchanged [.st, .pc] s t

/-! ### Reset and ROM load -/

/-- The reset state, part by part, as the reset-state table gives it (70_reset_and_hazards.md section 1; I, the frame buffer, the keys, the
latch and the phase are the spec's decisions D30, D15, D10, D16; `draws` is left out, log entry 6). FONT is whatever it is. -/
def Obligations.ResetStateIsTheResetTable : Prop :=
  (∀ k (h : k < 80), State.reset.mem.read (0x050 + k) = Config.font[k]) ∧
    (∀ a, a < 0x050 ∨ 0x0A0 ≤ a → State.reset.mem.read a = 0x00) ∧
    (∀ r, State.reset.getV r = 0x00) ∧ State.reset.i = 0x0000 ∧ State.reset.pc = 0x0200 ∧
    (∀ k, State.reset.stackEntry k = 0x0000) ∧ State.reset.sp = 0 ∧ State.reset.dt = 0x00 ∧ State.reset.st = 0x00 ∧
    (∀ y x, pixel State.reset.fb y x = false) ∧ (∀ k : Fin 16, State.reset.key[k] = false) ∧
    State.reset.fault = none ∧ State.reset.phase = .loadable

/-- A ROM of at most 3584 bytes in phase Loadable is copied to 0x200 and up, and changes no other byte and nothing else but the phase; any
other load returns LoadError and changes nothing (70_reset_and_hazards.md section 2; the spec's decision D16). Memory canonical: an
invariant of the model (log entry 8). -/
def Obligations.RomLoadCopiesTheImageOrRefuses : Prop :=
  ∀ (s : State) (bytes : List Byte),
    (s.mem.wf = true → s.phase = .loadable → bytes.length ≤ 3584 →
      (loadRom bytes s).2 = .ok ∧
      (∀ k (h : k < bytes.length), (loadRom bytes s).1.mem.read (0x200 + k) = bytes[k]) ∧
      (∀ a, a < 0x200 ∨ 0x200 + bytes.length ≤ a → (loadRom bytes s).1.mem.read a = s.mem.read a) ∧
      (loadRom bytes s).1.phase = .loaded ∧ Unchanged [.mem, .phase] s (loadRom bytes s).1) ∧
    ((s.phase ≠ .loadable ∨ 3584 < bytes.length) → loadRom bytes s = (s, .loadError))

/-- Only Reset clears a latched fault: whatever else the host does, the latch stays as it is; and Reset, in any state, faulted or
not, is the construction state again (70_reset_and_hazards.md section 1, 60_exceptions.md section 2; the spec's decisions D10 and D17;
`draws` goes on, log entry 6). -/
def Obligations.OnlyResetClearsALatchedFault : Prop :=
  (∀ (s t : State) (m : HostMove) (f : FaultInfo), s.fault = some f → m ≠ .reset → hostMove m s = .next t → t.fault = some f) ∧
    ∀ s : State, hostMove .reset s = .next (hostReset s) ∧ hostReset s = { State.reset with draws := s.draws }

/-- Every move of the host, a Step, a change of the keys, a ROM load or a Reset, keeps both invariants, from every state that has
them: canonical memory and a consistent latch (10_state.md section 10, 60_exceptions.md sections 1 and 2, 70_reset_and_hazards.md
sections 1 and 2; log entries 1 and 8). -/
def Obligations.HostMovesKeepTheInvariants : Prop :=
  ∀ (m : HostMove) (s t : State), s.mem.wf = true → LatchConsistent s → hostMove m s = .next t →
    t.mem.wf = true ∧ LatchConsistent t
end

