-- ==== Sys2Proof/Laws/Decode.lean ====
section
/-! SUPPORT. The fields of a word built from fields, and what a row's mask leaves of one, format by format (30_encoding.md R71). -/

namespace Sys2Proof

theorem append_and_append {m n : Nat} (a c : BitVec m) (b d : BitVec n) :
    (a ++ b) &&& (c ++ d) = (a &&& c) ++ (b &&& d) := by
  apply BitVec.eq_of_getLsbD_eq
  intro k hk
  simp only [BitVec.getLsbD_and, BitVec.getLsbD_append]
  split <;> rfl

theorem and_ones4 (a : BitVec 4) : a &&& 0xF#4 = a := BitVec.and_allOnes
theorem and_ones8 (a : BitVec 8) : a &&& 0xFF#8 = a := BitVec.and_allOnes

variable (f x y d : Nibble) (nn : Byte) (nnn : Addr12)

/-! ### Masks -/

theorem mask_nnn : (f ++ nnn : Word) &&& 0xF000 = f ++ 0x000#12 := by
  rw [show (0xF000 : Word) = 0xF#4 ++ 0x000#12 from rfl, append_and_append]
  simp [and_ones4]

theorem mask_xnn : (f ++ x ++ nn : Word) &&& 0xF000 = f ++ 0x0#4 ++ 0x00#8 := by
  rw [show (0xF000 : Word) = 0xF#4 ++ 0x0#4 ++ 0x00#8 from rfl, append_and_append, append_and_append]
  simp [and_ones4]

theorem mask_xyn : (f ++ x ++ y ++ d : Word) &&& 0xF000 = f ++ 0x0#4 ++ 0x0#4 ++ 0x0#4 := by
  rw [show (0xF000 : Word) = 0xF#4 ++ 0x0#4 ++ 0x0#4 ++ 0x0#4 from rfl, append_and_append, append_and_append,
    append_and_append]
  simp [and_ones4]

theorem mask_xys : (f ++ x ++ y ++ d : Word) &&& 0xF00F = f ++ 0x0#4 ++ 0x0#4 ++ d := by
  rw [show (0xF00F : Word) = 0xF#4 ++ 0x0#4 ++ 0x0#4 ++ 0xF#4 from rfl, append_and_append, append_and_append,
    append_and_append]
  simp [and_ones4]

theorem mask_xss : (f ++ x ++ nn : Word) &&& 0xF0FF = f ++ 0x0#4 ++ nn := by
  rw [show (0xF0FF : Word) = 0xF#4 ++ 0x0#4 ++ 0xFF#8 from rfl, append_and_append, append_and_append]
  simp [and_ones4, and_ones8]

/-! ### Fields -/

/-- The low part of a concatenation. -/
theorem extract_low {m n : Nat} (a : BitVec m) (b : BitVec n) : (a ++ b).extractLsb' 0 n = b := by
  apply BitVec.eq_of_getLsbD_eq
  intro k hk
  simp [hk, BitVec.getLsbD_append]

/-- A part of a concatenation above its low part. -/
theorem extract_high {m n k w : Nat} (a : BitVec m) (b : BitVec n) :
    (a ++ b).extractLsb' (n + k) w = a.extractLsb' k w := by
  apply BitVec.eq_of_getLsbD_eq
  intro j hj
  have h : ¬ n + k + j < n := by omega
  rw [BitVec.getLsbD_extractLsb', BitVec.getLsbD_extractLsb', BitVec.getLsbD_append, if_neg h,
    show n + k + j - n = k + j by omega]

/-- A part of a concatenation inside its low part. -/
theorem extract_inside {m n k w : Nat} (a : BitVec m) (b : BitVec n) (h : k + w ≤ n) :
    (a ++ b).extractLsb' k w = b.extractLsb' k w := by
  apply BitVec.eq_of_getLsbD_eq
  intro j hj
  simp [hj, BitVec.getLsbD_append, show k + j < n by omega]

theorem extract_all {n : Nat} (a : BitVec n) : a.extractLsb' 0 n = a := by
  apply BitVec.eq_of_getLsbD_eq
  intro k hk
  simp [hk]

@[simp] theorem opFamily_nnn : opFamily (f ++ nnn) = f := (extract_high (k := 0) f nnn).trans (extract_all f)
@[simp] theorem fieldNNN_nnn : fieldNNN (f ++ nnn) = nnn := extract_low f nnn

@[simp] theorem opFamily_xnn : opFamily (f ++ x ++ nn) = f :=
  (extract_high (k := 4) (f ++ x) nn).trans ((extract_high (k := 0) f x).trans (extract_all f))
@[simp] theorem fieldX_xnn : fieldX (f ++ x ++ nn) = x := (extract_high (k := 0) (f ++ x) nn).trans (extract_low f x)
@[simp] theorem fieldNN_xnn : fieldNN (f ++ x ++ nn) = nn := extract_low (f ++ x) nn

@[simp] theorem opFamily_xyn : opFamily (f ++ x ++ y ++ d) = f :=
  (extract_high (k := 8) (f ++ x ++ y) d).trans
    ((extract_high (k := 4) (f ++ x) y).trans ((extract_high (k := 0) f x).trans (extract_all f)))
@[simp] theorem fieldX_xyn : fieldX (f ++ x ++ y ++ d) = x :=
  (extract_high (k := 4) (f ++ x ++ y) d).trans ((extract_high (k := 0) (f ++ x) y).trans (extract_low f x))
@[simp] theorem fieldY_xyn : fieldY (f ++ x ++ y ++ d) = y :=
  (extract_high (k := 0) (f ++ x ++ y) d).trans (extract_low (f ++ x) y)
@[simp] theorem fieldN_xyn : fieldN (f ++ x ++ y ++ d) = d := extract_low (f ++ x ++ y) d

/-- A stretch of bits is its high part over its low part. -/
theorem extract_split {l : Nat} (w : BitVec l) (k m n : Nat) :
    w.extractLsb' k (m + n) = w.extractLsb' (k + n) m ++ w.extractLsb' k n := by
  apply BitVec.eq_of_getLsbD_eq
  intro j hj
  rw [BitVec.getLsbD_append]
  by_cases h : j < n
  · simp [h, hj]
  · simp [h, hj, show j - n < m by omega, show k + n + (j - n) = k + j by omega]

/-- A word is its fields, in each of the groupings of R71. -/
theorem word_nnn (w : Word) : opFamily w ++ fieldNNN w = w :=
  (extract_split w 0 4 12).symm.trans (extract_all w)

theorem word_xnn (w : Word) : opFamily w ++ fieldX w ++ fieldNN w = w :=
  (congrArg (· ++ fieldNN w) (extract_split w 8 4 4).symm).trans
    ((extract_split w 0 8 8).symm.trans (extract_all w))

theorem word_xyn (w : Word) : opFamily w ++ fieldX w ++ fieldY w ++ fieldN w = w :=
  (congrArg (fun a : BitVec 12 => a ++ fieldN w)
      ((congrArg (fun a : BitVec 8 => a ++ fieldY w) (extract_split w 8 4 4).symm).trans (extract_split w 4 8 4).symm)).trans
    ((extract_split w 0 12 4).symm.trans (extract_all w))

/-- The two bytes of a word, put together big-endian, are the word (20_memory.md R55). -/
theorem wordOfBytes_bytesOfWord (w : Word) : wordOfBytes (w.extractLsb' 8 8) (w.extractLsb' 0 8) = w := by
  apply BitVec.eq_of_getLsbD_eq
  intro k hk
  refine (BitVec.getLsbD_append (x := w.extractLsb' 8 8) (y := w.extractLsb' 0 8) (i := k)).trans ?_
  by_cases h : k < 8
  · simp [h]
  · simp [h, show k - 8 < 8 by omega, show 8 + (k - 8) = k by omega]

/-- A word that is not recognised is reported as itself (30_encoding.md R78). -/
theorem decode_unknown {m : DecodeMode} {w op : Word} (h : decode m w = .unknown op) : op = w := by
  unfold decode at h
  split at h
  · cases h
  · split at h
    · cases h; rfl
    · split at h <;> cases h; rfl

/-- A word the STRICT reading recognises decodes the same under both values of `P_DECODE` (30_encoding.md R79). -/
theorem decode_of_strict {w : Word} {i : Instr} (m : DecodeMode) (h : decodeStrict w = some i) : decode m w = .instr i := by
  simp [decode, h]

end Sys2Proof
end

