-- ==== Sys2Proof/Laws/Display.lean ====
section
/-! SUPPORT. What the sprite draw does, pixel by pixel: the loops of 41_display.md R121 as one exclusive or, and the collision bit as one
question about the frame buffer before the draw (R124). -/

namespace Sys2Proof.Machine

/-- Whether a place lies in the 64 x 32 buffer. -/
def onScreen (y x : Nat) : Bool := decide (y < 32 ∧ x < 64)

theorem pixel_offScreen {f : FrameBuffer} {y x : Nat} (h : onScreen y x = false) : pixel f y x = false := by
  simp [onScreen] at h
  unfold pixel
  split
  · omega
  · rfl

/-- Two frame buffers with the same pixels are the same. -/
theorem frameBuffer_ext {f g : FrameBuffer} (h : ∀ y x, onScreen y x = true → pixel f y x = pixel g y x) : f = g := by
  apply Vector.ext
  intro y hy
  apply Vector.ext
  intro x hx
  simpa [pixel, onScreen, hy, hx] using h y x (by simp [onScreen, hy, hx])

theorem pixel_drawPixel (d : Drawing) (py px y x : Nat) :
    pixel (drawPixel d py px).fb y x = (pixel d.fb y x ^^ (onScreen y x && decide (y = py ∧ x = px))) := by
  unfold drawPixel
  split
  · rename_i h
    by_cases hs : y < 32 ∧ x < 64
    · simp only [pixel, dif_pos hs, onScreen]
      by_cases hy : y = py
      · subst hy
        by_cases hx : x = px
        · subst hx; simp [hs]
        · simp [hx, Ne.symm hx]
      · simp [hy, Ne.symm hy]
    · simp only [pixel, dif_neg hs, onScreen]; simp; omega
  · rename_i h
    by_cases hs : onScreen y x = true
    · have : ¬ (y = py ∧ x = px) := by rintro ⟨rfl, rfl⟩; simp [onScreen] at hs; exact h hs
      simp [this]
    · simp [hs]

theorem collision_drawPixel (d : Drawing) (py px : Nat) :
    (drawPixel d py px).collision = (d.collision || pixel d.fb py px) := by
  unfold drawPixel pixel
  split <;> simp

/-- One sprite row over any duplicate-free list of bit positions. -/
theorem drawBits_spec (l : List Nat) (hl : l.Nodup) (d : Drawing) (x0 py : Nat) (row : Byte) :
    (∀ y x, pixel (l.foldl (fun d b => if row.getLsbD (7 - b) then drawPixel d py (x0 + b) else d) d).fb y x =
        (pixel d.fb y x ^^ (onScreen y x && decide (y = py) && l.any fun b => row.getLsbD (7 - b) && decide (x = x0 + b)))) ∧
      (l.foldl (fun d b => if row.getLsbD (7 - b) then drawPixel d py (x0 + b) else d) d).collision =
        (d.collision || l.any fun b => row.getLsbD (7 - b) && pixel d.fb py (x0 + b)) := by
  induction l generalizing d with
  | nil => simp
  | cons b rest ih =>
    obtain ⟨hb, hrest⟩ := List.nodup_cons.1 hl
    have key := ih hrest (if row.getLsbD (7 - b) then drawPixel d py (x0 + b) else d)
    refine ⟨fun y x => ?_, ?_⟩
    · rw [List.foldl_cons, key.1 y x]
      by_cases hbit : row.getLsbD (7 - b) = true
      · rw [if_pos hbit, pixel_drawPixel]
        by_cases hx : x = x0 + b
        · have hnone : (rest.any fun c => row.getLsbD (7 - c) && decide (x = x0 + c)) = false := by
            rw [List.any_eq_false]
            intro c hc
            have : c ≠ b := fun e => hb (e ▸ hc)
            simp; omega
          rw [List.any_cons, hnone]
          by_cases hy : y = py <;> cases onScreen y x <;> simp [hx, hy, hbit]
        · by_cases hy : y = py <;> cases onScreen y x <;> simp [hx, hy]
      · simp [hbit]
    · rw [List.foldl_cons, key.2]
      by_cases hbit : row.getLsbD (7 - b) = true
      · rw [if_pos hbit, collision_drawPixel]
        have hsame : (rest.any fun c => row.getLsbD (7 - c) && pixel (drawPixel d py (x0 + b)).fb py (x0 + c)) =
            rest.any fun c => row.getLsbD (7 - c) && pixel d.fb py (x0 + c) := by
          rw [Bool.eq_iff_iff, List.any_eq_true, List.any_eq_true]
          refine exists_congr fun c => and_congr_right fun hc => ?_
          have : c ≠ b := fun e => hb (e ▸ hc)
          simp [pixel_drawPixel, this]
        rw [hsame]
        simp [hbit, Bool.or_assoc]
      · simp [hbit]

/-- Whether the sprite whose rows start at row `y0`, column `x0` has a set bit at row `y`, column `x` (R121). -/
def rowsBit (x0 y0 : Nat) (rows : List Byte) (y x : Nat) : Bool :=
  decide (y0 ≤ y ∧ x0 ≤ x ∧ x < x0 + 8) && ((rows[y - y0]?).getD 0).getLsbD (7 - (x - x0))

theorem any_bits (row : Byte) (x0 x : Nat) :
    ((List.range 8).any fun b => row.getLsbD (7 - b) && decide (x = x0 + b)) =
      (decide (x0 ≤ x ∧ x < x0 + 8) && row.getLsbD (7 - (x - x0))) := by
  rw [Bool.eq_iff_iff]
  simp only [List.any_eq_true, List.mem_range, Bool.and_eq_true, decide_eq_true_eq]
  constructor
  · rintro ⟨b, hb, hr, rfl⟩
    exact ⟨by omega, by simpa using hr⟩
  · rintro ⟨h, hr⟩
    exact ⟨x - x0, by omega, hr, by omega⟩

theorem pixel_drawRow (d : Drawing) (x0 py : Nat) (row : Byte) (y x : Nat) :
    pixel (drawRow d x0 py row).fb y x = (pixel d.fb y x ^^ (onScreen y x && decide (y = py) &&
      (decide (x0 ≤ x ∧ x < x0 + 8) && row.getLsbD (7 - (x - x0))))) := by
  rw [drawRow, (drawBits_spec _ List.nodup_range d x0 py row).1 y x, any_bits]

theorem collision_drawRow (d : Drawing) (x0 py : Nat) (row : Byte) :
    (drawRow d x0 py row).collision = true ↔ d.collision = true ∨
      ∃ x, x0 ≤ x ∧ x < x0 + 8 ∧ row.getLsbD (7 - (x - x0)) = true ∧ pixel d.fb py x = true := by
  rw [drawRow, (drawBits_spec _ List.nodup_range d x0 py row).2]
  simp only [Bool.or_eq_true, List.any_eq_true, List.mem_range, Bool.and_eq_true]
  constructor
  · rintro (h | ⟨b, hb, hr, hp⟩)
    · exact .inl h
    · exact .inr ⟨x0 + b, by omega, by omega, by simpa using hr, hp⟩
  · rintro (h | ⟨x, h1, h2, hr, hp⟩)
    · exact .inl h
    · exact .inr ⟨x - x0, by omega, hr, by rwa [show x0 + (x - x0) = x by omega]⟩

/-- The whole draw, pixel by pixel: an exclusive or with the sprite, inside the buffer (R121, R123). -/
theorem pixel_drawRows (d : Drawing) (x0 py : Nat) (rows : List Byte) (y x : Nat) :
    pixel (drawRows d x0 py rows).fb y x = (pixel d.fb y x ^^ (onScreen y x && rowsBit x0 py rows y x)) := by
  induction rows generalizing d py with
  | nil => simp [drawRows, rowsBit]
  | cons row rest ih =>
    rw [drawRows, ih, pixel_drawRow]
    by_cases hy : y = py
    · subst hy
      have h1 : ¬ (y + 1 ≤ y) := by omega
      cases onScreen y x <;> simp [rowsBit]
    · by_cases hlt : py < y
      · have h1 : y - py = (y - (py + 1)) + 1 := by omega
        have h2 : py + 1 ≤ y := hlt
        have h3 : py ≤ y := by omega
        simp [rowsBit, hy, h1, h2, h3]
      · have h2 : ¬ (py + 1 ≤ y) := by omega
        have h3 : ¬ (py ≤ y) := by omega
        simp [rowsBit, hy, h2, h3]

/-- The collision bit of the whole draw: some set sprite bit meets a pixel that was on before the draw (R124). -/
theorem collision_drawRows (d : Drawing) (x0 py : Nat) (rows : List Byte) :
    (drawRows d x0 py rows).collision = true ↔ d.collision = true ∨
      ∃ y x, rowsBit x0 py rows y x = true ∧ pixel d.fb y x = true := by
  induction rows generalizing d py with
  | nil => simp [drawRows, rowsBit]
  | cons row rest ih =>
    rw [drawRows, ih, collision_drawRow]
    constructor
    · rintro ((h | ⟨x, h1, h2, hr, hp⟩) | ⟨y, x, hb, hp⟩)
      · exact .inl h
      · exact .inr ⟨py, x, by simp [rowsBit, h1, h2, hr], hp⟩
      · right
        simp only [rowsBit, Bool.and_eq_true, decide_eq_true_eq] at hb
        have hne : y ≠ py := by omega
        refine ⟨y, x, ?_, by simpa [pixel_drawRow, hne] using hp⟩
        have h1 : y - py = (y - (py + 1)) + 1 := by omega
        simp only [rowsBit, Bool.and_eq_true, decide_eq_true_eq, h1, List.getElem?_cons_succ]
        exact ⟨by omega, hb.2⟩
    · rintro (h | ⟨y, x, hb, hp⟩)
      · exact .inl (.inl h)
      · simp only [rowsBit, Bool.and_eq_true, decide_eq_true_eq] at hb
        by_cases hy : y = py
        · subst hy
          exact .inl (.inr ⟨x, by omega, by omega, by simpa using hb.2, hp⟩)
        · right
          have h1 : y - py = (y - (py + 1)) + 1 := by omega
          refine ⟨y, x, ?_, by simpa [pixel_drawRow, hy] using hp⟩
          simp only [h1, List.getElem?_cons_succ] at hb
          simp only [rowsBit, Bool.and_eq_true, decide_eq_true_eq]
          exact ⟨by omega, hb.2⟩

theorem pixel_clearedScreen (y x : Nat) : pixel clearedScreen y x = false := by
  unfold pixel clearedScreen
  split <;> simp

end Sys2Proof.Machine
end

