-- ==== Sys2Proof/Laws/Memory.lean ====
section
/-! SUPPORT. The laws of Memory: a read after a write, and that every operation keeps the canonical form (log entry 8). -/

namespace Sys2Proof.Machine

theorem Memory.wfFrom_mono {lo lo' : Nat} (h : lo' ≤ lo) {m : Memory} (hm : Memory.wfFrom lo m = true) :
    Memory.wfFrom lo' m = true := by
  cases m with
  | nil => rfl
  | cons c rest => simp [Memory.wfFrom] at hm ⊢; exact ⟨⟨⟨by omega, hm.1.1.2⟩, hm.1.2⟩, hm.2⟩

/-- Below the first address a canonical tail may list, nothing is listed. -/
theorem Memory.read_of_wfFrom {lo a : Nat} {m : Memory} (hm : Memory.wfFrom lo m = true) (ha : a < lo) :
    m.read a = Memory.initial a := by
  induction m generalizing lo with
  | nil => rfl
  | cons c rest ih =>
    simp [Memory.wfFrom] at hm
    have hne : a ≠ c.1 := by omega
    simp [Memory.read, hne, ih hm.2 (by omega)]

/-- A write leaves every other address alone, in any memory. -/
theorem Memory.read_write_of_ne {a a' : Nat} (m : Memory) (b : Byte) (h : a' ≠ a) :
    (m.write a b).read a' = m.read a' := by
  induction m with
  | nil => by_cases hb : b = Memory.initial a <;> simp [Memory.write, Memory.read, hb, h]
  | cons c rest ih =>
    by_cases h1 : a < c.1
    · by_cases hb : b = Memory.initial a <;> simp [Memory.write, Memory.read, h1, hb, h]
    · by_cases h2 : a = c.1
      · subst h2
        by_cases hb : b = Memory.initial c.1 <;> simp [Memory.write, Memory.read, hb, h]
      · simp [Memory.write, Memory.read, h1, h2, ih]

theorem Memory.read_write_self_from {lo a : Nat} {m : Memory} (b : Byte) (hm : Memory.wfFrom lo m = true) :
    (m.write a b).read a = b := by
  induction m generalizing lo with
  | nil => by_cases hb : b = Memory.initial a <;> simp [Memory.write, Memory.read, hb]
  | cons c rest ih =>
    have hm' := hm
    simp [Memory.wfFrom] at hm'
    have tail : ∀ a', a' < c.1 + 1 → Memory.read rest a' = Memory.initial a' :=
      fun a' ha' => Memory.read_of_wfFrom hm'.2 ha'
    by_cases h1 : a < c.1
    · have hne : a ≠ c.1 := by omega
      by_cases hb : b = Memory.initial a <;> simp [Memory.write, Memory.read, h1, hb, hne, tail a (by omega)]
    · by_cases h2 : a = c.1
      · subst h2
        by_cases hb : b = Memory.initial c.1 <;> simp [Memory.write, Memory.read, hb, tail c.1 (by omega)]
      · simp [Memory.write, Memory.read, h1, h2, ih hm'.2]

/-- A read after a write to the same address gives the byte written, in a canonical memory. -/
theorem Memory.read_write_self {a : Nat} {m : Memory} (b : Byte) (hm : m.wf = true) : (m.write a b).read a = b :=
  Memory.read_write_self_from b hm

theorem Memory.wfFrom_write {lo a : Nat} {m : Memory} (b : Byte) (hm : Memory.wfFrom lo m = true) (hlo : lo ≤ a)
    (ha : a < memorySize) : Memory.wfFrom lo (m.write a b) = true := by
  induction m generalizing lo with
  | nil => by_cases hb : b = Memory.initial a <;> simp [Memory.write, Memory.wfFrom, hb, hlo, ha]
  | cons c rest ih =>
    have hm' := hm
    simp [Memory.wfFrom] at hm'
    by_cases h1 : a < c.1
    · by_cases hb : b = Memory.initial a
      · simpa [Memory.write, h1, hb] using hm
      · simp [Memory.write, Memory.wfFrom, h1, hb, hlo, ha, hm', Nat.succ_le_of_lt h1]
    · by_cases h2 : a = c.1
      · subst h2
        by_cases hb : b = Memory.initial c.1
        · simpa [Memory.write, hb] using Memory.wfFrom_mono (by omega) hm'.2
        · simp [Memory.write, Memory.wfFrom, hb, hlo, ha, hm'.2]
      · simp [Memory.write, Memory.wfFrom, h1, h2, hm', ih hm'.2 (by omega)]

/-- A write inside Memory keeps the canonical form. -/
theorem Memory.wf_write {a : Nat} {m : Memory} (b : Byte) (hm : m.wf = true) (ha : a < memorySize) :
    (m.write a b).wf = true := Memory.wfFrom_write b hm (Nat.zero_le a) ha

/-- A block of writes inside Memory keeps the canonical form. -/
theorem Memory.wf_writeList {a : Nat} {m : Memory} (bytes : List Byte) (hm : m.wf = true)
    (ha : bytes = [] ∨ a + bytes.length ≤ memorySize) : (m.writeList a bytes).wf = true := by
  induction bytes generalizing a m with
  | nil => exact hm
  | cons b rest ih =>
    simp at ha
    exact ih (Memory.wf_write b hm (by omega)) (by right; omega)

/-- A block of writes leaves every address outside the block alone, in any memory. -/
theorem Memory.read_writeList_outside {a a' : Nat} (m : Memory) (bytes : List Byte)
    (h : a' < a ∨ a + bytes.length ≤ a') : (m.writeList a bytes).read a' = m.read a' := by
  induction bytes generalizing a m with
  | nil => rfl
  | cons b rest ih =>
    simp at h
    rw [Memory.writeList, ih (m.write a b) (by omega), Memory.read_write_of_ne m b (by omega)]

/-- A block of writes inside Memory stores its `k`-th byte at the `k`-th address. -/
theorem Memory.read_writeList_inside {a : Nat} {m : Memory} (bytes : List Byte) (hm : m.wf = true)
    (ha : a + bytes.length ≤ memorySize) {k : Nat} (hk : k < bytes.length) :
    (m.writeList a bytes).read (a + k) = bytes[k] := by
  induction bytes generalizing a m k with
  | nil => simp at hk
  | cons b rest ih =>
    simp at ha hk
    cases k with
    | zero =>
      rw [Memory.writeList, Memory.read_writeList_outside _ _ (by omega)]
      simpa using Memory.read_write_self b hm
    | succ k =>
      rw [Memory.writeList, show a + (k + 1) = a + 1 + k by omega,
        ih (Memory.wf_write b hm (by omega)) (by omega) (by omega)]
      rfl

@[simp] theorem Memory.length_readList (m : Memory) (a n : Nat) : (m.readList a n).length = n := by
  simp [Memory.readList]

@[simp] theorem Memory.getElem_readList (m : Memory) (a n k : Nat) (h : k < (m.readList a n).length) :
    (m.readList a n)[k] = m.read (a + k) := by simp [Memory.readList]

/-- The memory after construction is canonical, and reads as the construction contents. -/
theorem State.reset_mem_wf : State.reset.mem.wf = true := rfl

end Sys2Proof.Machine
end

