-- ==== Sys2Proof/Laws/Ops.lean ====
section
/-! SUPPORT. One lemma per shared operation that says once everything it can do; proofs cite these and do not unfold it. -/

namespace Sys2Proof.Machine

/-! ### Registers -/

@[simp] theorem State.getV_setV_self (s : State) (x : Nibble) (b : Byte) : (s.setV x b).getV x = b := by
  simp [State.getV, State.setV]

@[simp] theorem State.getV_setV_of_ne (s : State) {x r : Nibble} (b : Byte) (h : r ≠ x) :
    (s.setV x b).getV r = s.getV r := by
  have hne : x.toNat ≠ r.toNat := fun e => h (BitVec.eq_of_toNat_eq e.symm)
  simp [State.getV, State.setV, Vector.getElem_set_ne, hne]

/-- A register write, read at any register. -/
theorem State.getV_setV (s : State) (x r : Nibble) (b : Byte) :
    (s.setV x b).getV r = if r = x then b else s.getV r := by
  by_cases h : r = x
  · subst h; simp
  · simp [h]

/-- Writing back what a register holds changes nothing. -/
theorem State.setV_getV (s : State) (x : Nibble) : s.setV x (s.getV x) = s := by
  simp [State.setV, State.getV]

/-- Two states that agree on every register read have the same register file. -/
theorem State.v_ext {s t : State} (h : ∀ r, t.getV r = s.getV r) : t.v = s.v := by
  apply Vector.ext
  intro k hk
  have := h (BitVec.ofNat 4 k)
  have hk' : k % 16 = k := Nat.mod_eq_of_lt hk
  simpa [State.getV, BitVec.toNat_ofNat, hk'] using this

theorem State.skipIf_eq (s : State) (c : Bool) : s.skipIf c = s.setPc (if c then s.pc + 2 else s.pc) := by
  cases c <;> rfl

/-- The write of a result and a flag changes registers only. -/
theorem State.writeResultAndFlag_frame (s : State) (o : FlagOrder) (x : Nibble) (res f : Byte) :
    ∃ w, s.writeResultAndFlag o x res f = { s with v := w } := by
  unfold State.writeResultAndFlag
  split
  · cases o <;> exact ⟨_, rfl⟩
  · exact ⟨_, rfl⟩

/-- Every register after the write of a result and a flag (43_alu.md R173, R160). -/
theorem State.getV_writeResultAndFlag (s : State) (o : FlagOrder) (x r : Nibble) (res f : Byte) :
    (s.writeResultAndFlag o x res f).getV r =
      if r = flagReg then (if x = flagReg ∧ o = .resultLast then res else f)
      else if r = x then res else s.getV r := by
  unfold State.writeResultAndFlag
  by_cases hx : x = flagReg
  · cases o <;> by_cases hr : r = flagReg <;> simp [hx, hr]
  · by_cases hr : r = flagReg
    · simp [hx, hr]
    · simp [hx, hr, State.getV_setV]

/-- A block of register writes changes registers only. -/
theorem State.setRegs_frame (s : State) (k : Nat) (bytes : List Byte) : ∃ w, s.setRegs k bytes = { s with v := w } := by
  induction bytes generalizing s k with
  | nil => exact ⟨s.v, rfl⟩
  | cons b rest ih =>
    unfold State.setRegs
    split
    · obtain ⟨w, hw⟩ := ih (s.setV (BitVec.ofNat 4 k) b) (k + 1)
      exact ⟨w, hw⟩
    · exact ⟨s.v, rfl⟩

/-- Every register after a block of register writes from Vk that ends at or below VF (44_index_memory.md R195). -/
theorem State.getV_setRegs (s : State) (k : Nat) (bytes : List Byte) (h : k + bytes.length ≤ 16) (r : Nibble) :
    (s.setRegs k bytes).getV r =
      if hr : k ≤ r.toNat ∧ r.toNat < k + bytes.length then bytes[r.toNat - k] else s.getV r := by
  induction bytes generalizing s k with
  | nil =>
    have hr : ¬ (k ≤ r.toNat ∧ r.toNat < k + ([] : List Byte).length) := by simp
    rw [dif_neg hr]; rfl
  | cons b rest ih =>
    simp only [List.length_cons] at h
    rw [State.setRegs, if_pos (by omega), ih _ _ (by omega)]
    have hk : (BitVec.ofNat 4 k).toNat = k := by simp; omega
    by_cases h0 : r.toNat = k
    · have hrk : r = BitVec.ofNat 4 k := BitVec.eq_of_toNat_eq (by rw [hk, h0])
      simp [hrk, hk]
    · have hrk : r ≠ BitVec.ofNat 4 k := fun e => h0 (by rw [e, hk])
      rw [State.getV_setV_of_ne _ _ hrk]
      by_cases h1 : k + 1 ≤ r.toNat ∧ r.toNat < k + 1 + rest.length
      · have h2 : k ≤ r.toNat ∧ r.toNat < k + (b :: rest).length := by simp; omega
        rw [dif_pos h1, dif_pos h2]
        have h3 : r.toNat - k = (r.toNat - (k + 1)) + 1 := by omega
        simp [h3]
      · have h2 : ¬ (k ≤ r.toNat ∧ r.toNat < k + (b :: rest).length) := by simp; omega
        rw [dif_neg h1, dif_neg h2]

@[simp] theorem State.length_regBlock (s : State) (x : Nibble) : (s.regBlock x).length = x.toNat + 1 := by
  simp [State.regBlock]

@[simp] theorem State.getElem_regBlock (s : State) (x : Nibble) (k : Nat) (h : k < (s.regBlock x).length) :
    (s.regBlock x)[k] = s.getV (BitVec.ofNat 4 k) := by simp [State.regBlock]

/-! ### Addresses, fetch, faults -/

theorem find?_addresses (base n : Nat) (l : List Nat) (hl : ∀ k, k ∈ l → k < n)
    (h : n = 0 ∨ base + n ≤ memorySize) :
    (l.map fun k => base + k).find? (fun a => decide (memorySize ≤ a)) = none := by
  simp only [List.find?_map, Option.map_eq_none_iff, List.find?_eq_none]
  intro k hk
  have := hl k hk
  simp; omega

/-- The range check passes exactly when the block is empty or ends inside Memory (20_memory.md R54, R57). -/
theorem outOfRange?_eq_none {base n : Nat} : outOfRange? base n = none ↔ n = 0 ∨ base + n ≤ memorySize := by
  constructor
  · intro h
    unfold outOfRange? at h
    rw [List.find?_eq_none] at h
    by_cases hn : n = 0
    · exact .inl hn
    · right
      have := h (base + (n - 1)) (List.mem_map.2 ⟨n - 1, List.mem_range.2 (by omega), rfl⟩)
      simp at this; omega
  · exact find?_addresses base n (List.range n) (fun k hk => List.mem_range.1 hk)

/-- The address a failing range check names is the lowest one of 0x1000 or more (60_exceptions.md R235). -/
theorem outOfRange?_eq_some {base n : Nat} (hn : n ≠ 0) (h : memorySize < base + n) :
    outOfRange? base n = some (max base memorySize) := by
  cases hf : outOfRange? base n with
  | none => rw [outOfRange?_eq_none] at hf; omega
  | some a =>
    unfold outOfRange? at hf
    rw [List.find?_eq_some_iff_getElem] at hf
    obtain ⟨ha, i, hi, hai, hmin⟩ := hf
    simp at ha hi hai
    by_cases hb : memorySize ≤ base
    · by_cases h0 : i = 0
      · congr 1; omega
      · have := hmin 0 (by omega); simp at this; omega
    · by_cases h0 : base + i = memorySize
      · congr 1; omega
      · have := hmin (memorySize - base) (by omega); simp at this; omega

/-- Fetch in one equation (20_memory.md R55, R56). -/
theorem State.fetch_eq (s : State) :
    s.fetch = if s.pc.toNat + 2 ≤ memorySize then .ok (wordOfBytes (s.mem.read s.pc.toNat) (s.mem.read (s.pc.toNat + 1)))
      else .error (max s.pc.toNat memorySize) := by
  unfold State.fetch
  by_cases h : s.pc.toNat + 2 ≤ memorySize
  · rw [if_pos h, outOfRange?_eq_none.2 (.inr h)]
  · rw [if_neg h, outOfRange?_eq_some (by decide) (by omega)]

/-- A state that differs from `s` in neither Memory nor PC fetches the same. -/
theorem State.fetch_congr {s t : State} (hm : t.mem = s.mem) (hp : t.pc = s.pc) : t.fetch = s.fetch := by
  simp [State.fetch, hm, hp]

/-- Taking a fault when none is latched records it, and changes nothing else (60_exceptions.md R236, R237). -/
theorem State.raise_eq (s : State) (k : FaultKind) (h : s.fault = none) :
    s.raise k = { s with fault := some { kind := k, pc := s.pc, op := s.opcode? } } := by
  simp [State.raise, State.faultInfo, h]

/-- Taking a fault always leaves one latched. -/
theorem State.raise_fault_ne_none (s : State) (k : FaultKind) : (s.raise k).fault ≠ none := by simp

/-! ### Call stack -/

/-- A push succeeds exactly when fewer than 16 entries are held (10_state.md R27). -/
theorem State.push_eq_none {s : State} {w : Word} : s.push w = none ↔ s.sp.val = 16 := by
  have := s.sp.isLt
  unfold State.push; split <;> simp <;> omega

/-- What a successful push leaves (R27). -/
theorem State.push_eq_some {s t : State} {w : Word} (h : s.push w = some t) :
    ∃ (stk : Vector Word 16) (d : Fin 17), t = { s with stack := stk, sp := d } ∧ d.val = s.sp.val + 1 ∧
      t.stackEntry s.sp.val = w ∧ ∀ k, k ≠ s.sp.val → t.stackEntry k = s.stackEntry k := by
  unfold State.push at h
  split at h
  · rename_i hlt
    cases h
    refine ⟨_, _, rfl, rfl, ?_, ?_⟩
    · simp [State.stackEntry, hlt]
    · intro k hk
      simp [State.stackEntry, Ne.symm hk]
  · cases h

/-- A pop succeeds exactly when an entry is held (R27). -/
theorem State.pop_eq_none {s : State} : s.pop = none ↔ s.sp.val = 0 := by
  unfold State.pop; split <;> simp <;> omega

/-- What a successful pop gives (R27). -/
theorem State.pop_eq_some {s t : State} {w : Word} (h : s.pop = some (w, t)) :
    ∃ d : Fin 17, t = { s with sp := d } ∧ d.val + 1 = s.sp.val ∧ w = s.stackEntry d.val := by
  unfold State.pop at h
  split at h
  · cases h
    refine ⟨_, rfl, ?_, rfl⟩
    show s.sp.val - 1 + 1 = s.sp.val
    omega
  · cases h

/-! ### Timers and keypad -/

/-- The tick of one timer in numbers (40_cycle_engine.md R106): a natural subtraction, which stops at 0. -/
theorem tickDown_toNat (t : Byte) : (tickDown t).toNat = t.toNat - 1 := by
  unfold tickDown
  split
  · rename_i h
    rw [BitVec.toNat_sub_of_le (by rw [BitVec.le_def]; exact h)]
    rfl
  · omega

/-- A key index has a level exactly when it is below 16 (10_state.md R30). -/
theorem State.key?_eq_none {s : State} {k : Byte} : s.key? k = none ↔ 16 ≤ k.toNat := by
  simp [State.key?]

/-- FX0A's scan finds the least pressed key (45_keypad_timers.md R213). -/
theorem State.firstKey?_eq_some {s : State} {k : Byte} (h : s.firstKey? = some k) :
    s.key? k = some true ∧ ∀ j : Byte, j.toNat < k.toNat → s.key? j ≠ some true := by
  unfold State.firstKey? at h
  rw [List.find?_eq_some_iff_getElem] at h
  obtain ⟨hk, i, hi, hik, hmin⟩ := h
  refine ⟨by simpa using hk, fun j hj => ?_⟩
  simp at hi hik
  have hki : k.toNat = i := by rw [← hik]; simp; omega
  have := hmin j.toNat (by omega)
  simpa using this

/-- FX0A's scan finds nothing exactly when no key is pressed. -/
theorem State.firstKey?_eq_none {s : State} : s.firstKey? = none ↔ ∀ k : Byte, s.key? k ≠ some true := by
  unfold State.firstKey?
  rw [List.find?_eq_none]
  constructor
  · intro h k
    by_cases hk : k.toNat < 16
    · have := h k (List.mem_map.2 ⟨k.toNat, List.mem_range.2 hk, by simp⟩)
      simpa using this
    · rw [State.key?_eq_none.2 (by omega)]; simp
  · intro h k _
    simpa using h k

/-! ### The two shared meanings that store or fault -/

/-- A store through I: every byte, or the fault (44_index_memory.md; 20_memory.md R57). -/
theorem State.storeAtI_eq (s : State) (bytes : List Byte) (hb : bytes ≠ []) :
    s.storeAtI bytes = if s.i.toNat + bytes.length ≤ memorySize then s.advance.setMem (s.mem.writeList s.i.toNat bytes)
      else s.raise (.memoryFault (max s.i.toNat memorySize)) := by
  have hl : bytes.length ≠ 0 := by simpa using hb
  unfold State.storeAtI
  by_cases h : s.i.toNat + bytes.length ≤ memorySize
  · rw [if_pos h, outOfRange?_eq_none.2 (.inr h)]
  · rw [if_neg h, outOfRange?_eq_some hl (by omega)]

/-- A key skip: the skip, or the fault (45_keypad_timers.md R210, R211). -/
theorem State.skipIfKey_eq (s : State) (x : Nibble) (level : Bool) :
    s.skipIfKey x level =
      if h : (s.getV x).toNat < 16 then s.advance.skipIf (s.key[(s.getV x).toNat] == level)
      else s.raise (.keyIndexFault (s.getV x)) := by
  unfold State.skipIfKey State.key?
  by_cases h : (s.getV x).toNat < 16
  · simp [h]
  · simp [h]

end Sys2Proof.Machine
end

