-- ==== Sys2Proof/Laws/PerInstr.lean ====
section
/-! SUPPORT. The family RowMatch, one lemma a constructor: an instruction's opcode word matches its own row of the field-value
table by match and mask (30_encoding.md R75), whatever its fields hold. -/

namespace Sys2Proof.Laws.RowMatch

/-- The encoded word matches the instruction's row (R75). -/
def Statement (i : Instr) : Prop := (rowOf i).matchesWord (encode i) = true

theorem op00E0 : Statement .op00E0 := rfl
theorem op00EE : Statement .op00EE := rfl
theorem op1NNN (nnn : Addr12) : Statement (.op1NNN nnn) := beq_iff_eq.2 (mask_nnn ..)
theorem op2NNN (nnn : Addr12) : Statement (.op2NNN nnn) := beq_iff_eq.2 (mask_nnn ..)
theorem op3XNN (x : Nibble) (nn : Byte) : Statement (.op3XNN x nn) := beq_iff_eq.2 (mask_xnn ..)
theorem op4XNN (x : Nibble) (nn : Byte) : Statement (.op4XNN x nn) := beq_iff_eq.2 (mask_xnn ..)
theorem op5XY0 (x : Nibble) (y : Nibble) : Statement (.op5XY0 x y) := beq_iff_eq.2 (mask_xys ..)
theorem op6XNN (x : Nibble) (nn : Byte) : Statement (.op6XNN x nn) := beq_iff_eq.2 (mask_xnn ..)
theorem op7XNN (x : Nibble) (nn : Byte) : Statement (.op7XNN x nn) := beq_iff_eq.2 (mask_xnn ..)
theorem op8XY0 (x : Nibble) (y : Nibble) : Statement (.op8XY0 x y) := beq_iff_eq.2 (mask_xys ..)
theorem op8XY1 (x : Nibble) (y : Nibble) : Statement (.op8XY1 x y) := beq_iff_eq.2 (mask_xys ..)
theorem op8XY2 (x : Nibble) (y : Nibble) : Statement (.op8XY2 x y) := beq_iff_eq.2 (mask_xys ..)
theorem op8XY3 (x : Nibble) (y : Nibble) : Statement (.op8XY3 x y) := beq_iff_eq.2 (mask_xys ..)
theorem op8XY4 (x : Nibble) (y : Nibble) : Statement (.op8XY4 x y) := beq_iff_eq.2 (mask_xys ..)
theorem op8XY5 (x : Nibble) (y : Nibble) : Statement (.op8XY5 x y) := beq_iff_eq.2 (mask_xys ..)
theorem op8XY6 (x : Nibble) (y : Nibble) : Statement (.op8XY6 x y) := beq_iff_eq.2 (mask_xys ..)
theorem op8XY7 (x : Nibble) (y : Nibble) : Statement (.op8XY7 x y) := beq_iff_eq.2 (mask_xys ..)
theorem op8XYE (x : Nibble) (y : Nibble) : Statement (.op8XYE x y) := beq_iff_eq.2 (mask_xys ..)
theorem op9XY0 (x : Nibble) (y : Nibble) : Statement (.op9XY0 x y) := beq_iff_eq.2 (mask_xys ..)
theorem opANNN (nnn : Addr12) : Statement (.opANNN nnn) := beq_iff_eq.2 (mask_nnn ..)
theorem opBNNN (nnn : Addr12) : Statement (.opBNNN nnn) := beq_iff_eq.2 (mask_nnn ..)
theorem opCXNN (x : Nibble) (nn : Byte) : Statement (.opCXNN x nn) := beq_iff_eq.2 (mask_xnn ..)
theorem opDXYN (x : Nibble) (y : Nibble) (n : Nibble) : Statement (.opDXYN x y n) := beq_iff_eq.2 (mask_xyn ..)
theorem opEX9E (x : Nibble) : Statement (.opEX9E x) := beq_iff_eq.2 (mask_xss ..)
theorem opEXA1 (x : Nibble) : Statement (.opEXA1 x) := beq_iff_eq.2 (mask_xss ..)
theorem opFX07 (x : Nibble) : Statement (.opFX07 x) := beq_iff_eq.2 (mask_xss ..)
theorem opFX0A (x : Nibble) : Statement (.opFX0A x) := beq_iff_eq.2 (mask_xss ..)
theorem opFX15 (x : Nibble) : Statement (.opFX15 x) := beq_iff_eq.2 (mask_xss ..)
theorem opFX18 (x : Nibble) : Statement (.opFX18 x) := beq_iff_eq.2 (mask_xss ..)
theorem opFX1E (x : Nibble) : Statement (.opFX1E x) := beq_iff_eq.2 (mask_xss ..)
theorem opFX29 (x : Nibble) : Statement (.opFX29 x) := beq_iff_eq.2 (mask_xss ..)
theorem opFX33 (x : Nibble) : Statement (.opFX33 x) := beq_iff_eq.2 (mask_xss ..)
theorem opFX55 (x : Nibble) : Statement (.opFX55 x) := beq_iff_eq.2 (mask_xss ..)
theorem opFX65 (x : Nibble) : Statement (.opFX65 x) := beq_iff_eq.2 (mask_xss ..)

end Sys2Proof.Laws.RowMatch
end

