-- ==== Sys2Proof/Laws/Ports.lean ====
section
/-! SUPPORT. Said once: what a ROM load, and a move of the host, can do. -/

namespace Sys2Proof.Machine

/-- A ROM load copies an image that fits, in phase Loadable, and then the phase is Loaded; otherwise it changes nothing
(70_reset_and_hazards.md R263, R264). -/
theorem loadRom_cases (bytes : List Byte) (s : State) :
    (s.phase = .loadable ∧ bytes.length ≤ 3584 ∧
        loadRom bytes s = ((s.setMem (s.mem.writeList 0x200 bytes)).setPhase .loaded, .ok)) ∨
      ((s.phase ≠ .loadable ∨ 3584 < bytes.length) ∧ loadRom bytes s = (s, .loadError)) := by
  unfold loadRom programBase memorySize
  split
  · exact .inl ⟨by tauto, by omega, rfl⟩
  · refine .inr ⟨?_, rfl⟩
    by_cases h : s.phase = .loadable
    · exact .inr (by simp_all; omega)
    · exact .inl h

/-- A ROM load keeps Memory canonical. -/
theorem loadRom_mem_wf (bytes : List Byte) {s : State} (h : s.mem.wf = true) : (loadRom bytes s).1.mem.wf = true := by
  obtain ⟨-, hl, he⟩ | ⟨-, he⟩ := loadRom_cases bytes s
  · rw [he]
    exact Memory.wf_writeList bytes h (.inr (by unfold memorySize; omega))
  · rw [he]
    exact h

/-- A ROM load leaves a running machine as it is (R264). -/
theorem loadRom_running (bytes : List Byte) {s : State} (h : s.phase = .running) : loadRom bytes s = (s, .loadError) := by
  simp [loadRom, h]

/-- What a move of the host can do: a Step, new key levels, a ROM load, or the construction state with the count of random bytes
kept (10_state.md R36). -/
theorem hostMove_cases {m : HostMove} {s t : State} (h : hostMove m s = .next t) :
    (m = .step ∧ step s = .next t) ∨ (∃ k, m = .keys k ∧ t = { s with key := k }) ∨
      (∃ bytes, m = .load bytes ∧ t = (loadRom bytes s).1) ∨ (m = .reset ∧ t = { State.reset with draws := s.draws }) := by
  cases m with
  | step => exact .inl ⟨rfl, h⟩
  | keys k =>
    simp only [hostMove, Host.Outcome.next.injEq] at h
    exact .inr (.inl ⟨k, rfl, h.symm⟩)
  | load bytes =>
    simp only [hostMove, Host.Outcome.next.injEq] at h
    exact .inr (.inr (.inl ⟨bytes, rfl, h.symm⟩))
  | reset =>
    simp only [hostMove, Host.Outcome.next.injEq] at h
    exact .inr (.inr (.inr ⟨rfl, h.symm⟩))

end Sys2Proof.Machine
end

