-- ==== Sys2Proof/Laws/Step.lean ====
section
/-! SUPPORT. Said once: what executing an instruction can do, and what a Step can do. Claims about every Step are derived from
these and do not unfold the machine. -/

namespace Sys2Proof.Machine

/-- An instruction answers a next state, in which it either took a fault from the state it began with, or left the latch, the
load phase and the keypad alone (60_exceptions.md R236; 10_state.md R30). -/
theorem exec_cases (i : Instr) (s : State) :
    ∃ t, exec i s = .next t ∧ ((∃ k, t = s.raise k) ∨ (t.fault = s.fault ∧ t.phase = s.phase ∧ t.key = s.key)) := by
  have flag : ∀ x res f, (s.advance.writeResultAndFlag Config.flagOrder x res f).fault = s.fault ∧
      (s.advance.writeResultAndFlag Config.flagOrder x res f).phase = s.phase ∧
      (s.advance.writeResultAndFlag Config.flagOrder x res f).key = s.key := by
    intro x res f
    obtain ⟨w, hw⟩ := State.writeResultAndFlag_frame s.advance Config.flagOrder x res f
    rw [hw]
    exact ⟨rfl, rfl, rfl⟩
  have keySkip : ∀ x l, (∃ k, s.skipIfKey x l = s.raise k) ∨
      ((s.skipIfKey x l).fault = s.fault ∧ (s.skipIfKey x l).phase = s.phase ∧ (s.skipIfKey x l).key = s.key) := by
    intro x l
    rw [State.skipIfKey_eq]
    split
    · right; simp [State.skipIf_eq]
    · exact .inl ⟨_, rfl⟩
  have store : ∀ bytes, bytes ≠ [] → (∃ k, s.storeAtI bytes = s.raise k) ∨
      ((s.storeAtI bytes).fault = s.fault ∧ (s.storeAtI bytes).phase = s.phase ∧ (s.storeAtI bytes).key = s.key) := by
    intro bytes hb
    rw [State.storeAtI_eq s bytes hb]
    split
    · right; simp
    · exact .inl ⟨_, rfl⟩
  cases i with
  | op00EE =>
    cases h : s.advance.pop with
    | none => exact ⟨_, by simp only [exec, exec00EE, h]; rfl, .inl ⟨_, rfl⟩⟩
    | some r =>
      obtain ⟨d, hd, -⟩ := State.pop_eq_some (w := r.1) (t := r.2) h
      exact ⟨_, by simp only [exec, exec00EE, h]; rfl, .inr (by simp [hd])⟩
  | op2NNN nnn =>
    cases h : s.advance.push s.advance.pc with
    | none => exact ⟨_, by simp only [exec, exec2NNN, h]; rfl, .inl ⟨_, rfl⟩⟩
    | some t =>
      obtain ⟨stk, d, hd, -⟩ := State.push_eq_some h
      exact ⟨_, by simp only [exec, exec2NNN, h]; rfl, .inr (by simp [hd])⟩
  | opDXYN x y n =>
    cases h : outOfRange? s.i.toNat n.toNat with
    | some a => exact ⟨_, by simp only [exec, execDXYN, h]; rfl, .inl ⟨_, rfl⟩⟩
    | none => exact ⟨_, by simp only [exec, execDXYN, h]; rfl, .inr (by simp)⟩
  | opFX65 x =>
    cases h : outOfRange? s.i.toNat (x.toNat + 1) with
    | some a => exact ⟨_, by simp only [exec, execFX65, h]; rfl, .inl ⟨_, rfl⟩⟩
    | none =>
      obtain ⟨w, hw⟩ := State.setRegs_frame s.advance 0 (s.mem.readList s.i.toNat (x.toNat + 1))
      exact ⟨_, by simp only [exec, execFX65, h]; rfl, .inr (by simp [hw])⟩
  | opFX0A x =>
    cases h : s.firstKey? with
    | some k => exact ⟨_, by simp only [exec, execFX0A, h]; rfl, .inr (by simp)⟩
    | none => exact ⟨_, by simp only [exec, execFX0A, h]; rfl, .inr (by simp)⟩
  | op8XY4 x y => exact ⟨_, rfl, .inr (flag x _ _)⟩
  | op8XY5 x y => exact ⟨_, rfl, .inr (flag x _ _)⟩
  | op8XY6 x y => exact ⟨_, rfl, .inr (flag x _ _)⟩
  | op8XY7 x y => exact ⟨_, rfl, .inr (flag x _ _)⟩
  | op8XYE x y => exact ⟨_, rfl, .inr (flag x _ _)⟩
  | opEX9E x => exact ⟨_, rfl, keySkip x true⟩
  | opEXA1 x => exact ⟨_, rfl, keySkip x false⟩
  | opFX33 x => exact ⟨_, rfl, store _ (by simp [decimalDigits])⟩
  | opFX55 x => exact ⟨_, rfl, store _ (by intro h; simpa using congrArg List.length h)⟩
  | op3XNN x nn => exact ⟨_, rfl, .inr (by simp [State.skipIf_eq])⟩
  | op4XNN x nn => exact ⟨_, rfl, .inr (by simp [State.skipIf_eq])⟩
  | op5XY0 x y => exact ⟨_, rfl, .inr (by simp [State.skipIf_eq])⟩
  | op9XY0 x y => exact ⟨_, rfl, .inr (by simp [State.skipIf_eq])⟩
  | op00E0 => exact ⟨_, rfl, .inr ⟨rfl, rfl, rfl⟩⟩
  | op1NNN nnn => exact ⟨_, rfl, .inr ⟨rfl, rfl, rfl⟩⟩
  | op6XNN x nn => exact ⟨_, rfl, .inr ⟨rfl, rfl, rfl⟩⟩
  | op7XNN x nn => exact ⟨_, rfl, .inr ⟨rfl, rfl, rfl⟩⟩
  | op8XY0 x y => exact ⟨_, rfl, .inr ⟨rfl, rfl, rfl⟩⟩
  | op8XY1 x y => exact ⟨_, rfl, .inr ⟨rfl, rfl, rfl⟩⟩
  | op8XY2 x y => exact ⟨_, rfl, .inr ⟨rfl, rfl, rfl⟩⟩
  | op8XY3 x y => exact ⟨_, rfl, .inr ⟨rfl, rfl, rfl⟩⟩
  | opANNN nnn => exact ⟨_, rfl, .inr ⟨rfl, rfl, rfl⟩⟩
  | opBNNN nnn => exact ⟨_, rfl, .inr ⟨rfl, rfl, rfl⟩⟩
  | opCXNN x nn => exact ⟨_, rfl, .inr ⟨rfl, rfl, rfl⟩⟩
  | opFX07 x => exact ⟨_, rfl, .inr ⟨rfl, rfl, rfl⟩⟩
  | opFX15 x => exact ⟨_, rfl, .inr ⟨rfl, rfl, rfl⟩⟩
  | opFX18 x => exact ⟨_, rfl, .inr ⟨rfl, rfl, rfl⟩⟩
  | opFX1E x => exact ⟨_, rfl, .inr ⟨rfl, rfl, rfl⟩⟩
  | opFX29 x => exact ⟨_, rfl, .inr ⟨rfl, rfl, rfl⟩⟩

/-- What a Step from an unfaulted state can do (40_cycle_engine.md R100): fault at the fetch, do nothing but advance and tick
on an unrecognised word, take a fault in the instruction, or complete the instruction and tick. -/
theorem cycle_cases (s : State) (h : s.fault = none) :
    (∃ a, s.fetch = .error a ∧
        cycle s = .next (s.beginStep.raise (.memoryFault a), .faulted (s.faultInfo (.memoryFault a)))) ∨
      (∃ op, s.fetch = .ok op ∧ decode Config.decodeMode op = .unknown op ∧
        cycle s = .next (s.beginStep.advance.tick, .unknown op)) ∨
      (∃ op i k, s.fetch = .ok op ∧ decode Config.decodeMode op = .instr i ∧
        exec i s.beginStep = .next (s.beginStep.raise k) ∧
        cycle s = .next (s.beginStep.raise k, .faulted (s.faultInfo k))) ∨
      (∃ op i t, s.fetch = .ok op ∧ decode Config.decodeMode op = .instr i ∧ exec i s.beginStep = .next t ∧
        t.fault = none ∧ t.phase = .running ∧ t.key = s.key ∧ cycle s = .next (t.tick, .ok)) := by
  have hinfo : ∀ k, (s.beginStep.raise k).fault = some (s.faultInfo k) := by
    intro k
    simp [h, State.faultInfo, State.opcode?, State.fetch_congr (s := s) (t := s.beginStep) rfl rfl]
  unfold cycle
  rw [h]
  cases hf : s.fetch with
  | error a => exact .inl ⟨a, rfl, by simp only [finishStep, hinfo]⟩
  | ok op =>
    right
    cases hd : decode Config.decodeMode op with
    | unknown op' =>
      have : op' = op := by
        unfold decode at hd
        split at hd
        · cases hd
        · split at hd
          · cases hd; rfl
          · split at hd <;> cases hd; rfl
      subst this
      exact .inl ⟨_, rfl, hd, by simp only [hd, executeDecoded]⟩
    | instr i =>
      right
      obtain ⟨t, ht, ⟨k, rfl⟩ | ⟨h1, h2, h3⟩⟩ := exec_cases i s.beginStep
      · exact .inl ⟨op, i, k, rfl, hd, ht, by simp only [hd, executeDecoded, ht, finishStep, hinfo]⟩
      · have h1' : t.fault = none := by rw [h1]; exact h
        exact .inr ⟨op, i, t, rfl, hd, ht, h1', h2, h3, by simp only [hd, executeDecoded, ht, finishStep, h1']⟩

/-- The step and its outcome are the two halves of one cycle. -/
theorem step_of_cycle {s : State} {r : State × StepOutcome} (h : cycle s = .next r) :
    step s = .next r.1 ∧ stepOutcome s = some r.2 := by
  simp [step, stepState, stepOutcome, h]

end Sys2Proof.Machine
end

