-- ==== Sys2Proof/Tests/Slice0.lean ====
section
/-! SUPPORT. The model's own tests. Expected results come from spec/95_test_vectors.md (the vector's number stands in the theorem's comment)
or from the encodings of 30_encoding.md written out bit by bit. Then one witness for each statement that has hypotheses. -/

namespace Sys2Proof.Tests
open Sys2Proof.Machine Sys2Proof.Claims

/-! ### Helpers -/

/-- The answer is a next state that satisfies `P`. -/
def nextIs (o : Host.Outcome State Fault Refusal) (P : State → Bool) : Bool :=
  match o with
  | .next t => P t
  | .fault _ => false
  | .refused _ => false

theorem exists_next {o : Host.Outcome State Fault Refusal} {P : State → Bool} (h : nextIs o P = true) :
    ∃ t, o = .next t ∧ P t = true := by
  cases o with
  | next t => exact ⟨t, rfl, h⟩
  | fault f => cases h
  | refused r => cases h

/-- The reset state with registers, I and memory bytes set. -/
def setup (vs : List (Nibble × Byte)) (i : Word := 0x0300) (bytes : List (Nat × Byte) := []) : State :=
  { vs.foldl (fun s p => s.setV p.1 p.2) State.reset with
    i := i, mem := bytes.foldl (fun m p => m.write p.1 p.2) [] }

/-- `s` about to fetch the word `w`. -/
def at_ (w : Nat) (s : State := State.reset) : State := s.withFetchWord 16 w

/-- `s` with `n` stack entries held. -/
def held (n : Fin 17) (s : State := State.reset) : State := { s with sp := n }

/-- `s` with one key pressed. -/
def pressing (k : Fin 16) (s : State := State.reset) : State := { s with key := s.key.set k true }

/-- A latched fault. -/
def someFault : FaultInfo := { kind := .stackUnderflow, pc := 0x0200, op := some 0x00EE }

/-- A state with a latched fault. -/
def latched : State := { State.reset with fault := some someFault, phase := .running }

/-! ### Well-formedness: the one check refuses an ill-formed term -/

theorem test_romFits_refuses_3585_bytes : romFits (List.replicate 3585 0x00) = false := by
  rw [romFits, List.length_replicate]; decide
theorem test_romFits_accepts_3584_bytes : romFits (List.replicate 3584 0x00) = true := by
  rw [romFits, List.length_replicate]; decide

/-! ### Decoding: each constructor's word, bit by bit from its pattern (30_encoding.md R71, R75) -/

theorem test_decode_00E0 : decodeTableWord 16 0b0000_0000_1110_0000 = some .op00E0 := by decide
theorem test_decode_00EE : decodeTableWord 16 0b0000_0000_1110_1110 = some .op00EE := by decide
theorem test_decode_1NNN : decodeTableWord 16 0b0001_0010_0011_0100 = some (.op1NNN 0x234) := by decide
theorem test_decode_2NNN : decodeTableWord 16 0b0010_1111_0001_0000 = some (.op2NNN 0xF10) := by decide
theorem test_decode_3XNN : decodeTableWord 16 0b0011_1010_0001_1100 = some (.op3XNN 0xA 0x1C) := by decide
theorem test_decode_4XNN : decodeTableWord 16 0b0100_0011_1000_0001 = some (.op4XNN 0x3 0x81) := by decide
theorem test_decode_5XY0 : decodeTableWord 16 0b0101_0001_0010_0000 = some (.op5XY0 0x1 0x2) := by decide
theorem test_decode_6XNN : decodeTableWord 16 0b0110_1010_0100_0010 = some (.op6XNN 0xA 0x42) := by decide
theorem test_decode_7XNN : decodeTableWord 16 0b0111_0001_1111_1110 = some (.op7XNN 0x1 0xFE) := by decide
theorem test_decode_8XY0 : decodeTableWord 16 0b1000_0001_0010_0000 = some (.op8XY0 0x1 0x2) := by decide
theorem test_decode_8XY1 : decodeTableWord 16 0b1000_0001_0010_0001 = some (.op8XY1 0x1 0x2) := by decide
theorem test_decode_8XY2 : decodeTableWord 16 0b1000_0001_0010_0010 = some (.op8XY2 0x1 0x2) := by decide
theorem test_decode_8XY3 : decodeTableWord 16 0b1000_0001_0010_0011 = some (.op8XY3 0x1 0x2) := by decide
theorem test_decode_8XY4 : decodeTableWord 16 0b1000_0001_0010_0100 = some (.op8XY4 0x1 0x2) := by decide
theorem test_decode_8XY5 : decodeTableWord 16 0b1000_0001_0010_0101 = some (.op8XY5 0x1 0x2) := by decide
theorem test_decode_8XY6 : decodeTableWord 16 0b1000_0001_0010_0110 = some (.op8XY6 0x1 0x2) := by decide
theorem test_decode_8XY7 : decodeTableWord 16 0b1000_0001_0010_0111 = some (.op8XY7 0x1 0x2) := by decide
theorem test_decode_8XYE : decodeTableWord 16 0b1000_0001_0010_1110 = some (.op8XYE 0x1 0x2) := by decide
theorem test_decode_9XY0 : decodeTableWord 16 0b1001_0001_0010_0000 = some (.op9XY0 0x1 0x2) := by decide
theorem test_decode_ANNN : decodeTableWord 16 0b1010_0011_0000_0001 = some (.opANNN 0x301) := by decide
theorem test_decode_BNNN : decodeTableWord 16 0b1011_0010_0000_0001 = some (.opBNNN 0x201) := by decide
theorem test_decode_CXNN : decodeTableWord 16 0b1100_0011_0000_1111 = some (.opCXNN 0x3 0x0F) := by decide
theorem test_decode_DXYN : decodeTableWord 16 0b1101_0001_0010_0101 = some (.opDXYN 0x1 0x2 0x5) := by decide
theorem test_decode_EX9E : decodeTableWord 16 0b1110_0101_1001_1110 = some (.opEX9E 0x5) := by decide
theorem test_decode_EXA1 : decodeTableWord 16 0b1110_0101_1010_0001 = some (.opEXA1 0x5) := by decide
theorem test_decode_FX07 : decodeTableWord 16 0b1111_0011_0000_0111 = some (.opFX07 0x3) := by decide
theorem test_decode_FX0A : decodeTableWord 16 0b1111_0011_0000_1010 = some (.opFX0A 0x3) := by decide
theorem test_decode_FX15 : decodeTableWord 16 0b1111_0011_0001_0101 = some (.opFX15 0x3) := by decide
theorem test_decode_FX18 : decodeTableWord 16 0b1111_0011_0001_1000 = some (.opFX18 0x3) := by decide
theorem test_decode_FX1E : decodeTableWord 16 0b1111_0011_0001_1110 = some (.opFX1E 0x3) := by decide
theorem test_decode_FX29 : decodeTableWord 16 0b1111_0011_0010_1001 = some (.opFX29 0x3) := by decide
theorem test_decode_FX33 : decodeTableWord 16 0b1111_0011_0011_0011 = some (.opFX33 0x3) := by decide
theorem test_decode_FX55 : decodeTableWord 16 0b1111_0011_0101_0101 = some (.opFX55 0x3) := by decide
theorem test_decode_FX65 : decodeTableWord 16 0b1111_0011_0110_0101 = some (.opFX65 0x3) := by decide

/-- The words between the table and the decode prose, under each value of `P_DECODE` (CE10, CE11; R79). -/
theorem test_decode_modes_differ :
    decode .strict 0x5121 = .unknown 0x5121 ∧ decode .family 0x5121 = .instr (.op5XY0 0x1 0x2) ∧
    decode .strict 0x01E0 = .unknown 0x01E0 ∧ decode .family 0x01E0 = .instr .op00E0 ∧
    decode .family 0x0FEE = .instr .op00EE ∧ decode .family 0x934F = .instr (.op9XY0 0x3 0x4) := by decide

/-- Words unrecognised under both (CE1, CE12, CE13, CE14). -/
theorem test_decode_unknown_in_both (m : DecodeMode) :
    decode m 0x0000 = .unknown 0x0000 ∧ decode m 0x8128 = .unknown 0x8128 ∧ decode m 0xE1FF = .unknown 0xE1FF ∧
    decode m 0xF1FF = .unknown 0xF1FF := by cases m <;> decide

theorem test_decode_truncated (m : DecodeMode) : decodeBytes m [0x60] = .error .truncated := rfl

/-- The table has 34 rows with 34 names (R76). -/
theorem test_34_rows : opcodeRows.length = 34 ∧ (opcodeRows.map OpcodeRow.mnemonic).Nodup := by decide

/-! ### The cycle engine -/

theorem reset_fetch : State.reset.fetch = .ok 0x0000 := by decide

theorem unknown_0000 : decode Config.decodeMode 0x0000 = .unknown 0x0000 := by cases Config.decodeMode <;> decide

/-- CE2: an unknown word advances PC and ticks both timers. -/
theorem test_CE2 : nextIs (step { State.reset with dt := 3, st := 1 })
    (fun t => t.pc == 0x0202 && t.dt == 2 && t.st == 0 && t.getV 0 == 0 && t.fault == none) = true := by
  have hf : State.fetch { State.reset with dt := 3, st := 1 } = .ok 0x0000 := (State.fetch_congr rfl rfl).trans reset_fetch
  have hc : cycle { State.reset with dt := 3, st := 1 } =
      .next ((State.beginStep { State.reset with dt := 3, st := 1 }).advance.tick, .unknown 0x0000) := by
    unfold cycle
    rw [hf]
    show executeDecoded (decode Config.decodeMode 0x0000) _ = _
    rw [unknown_0000]
    rfl
  rw [(step_of_cycle hc).1]
  decide

/-- CE3: the fetch is big-endian. -/
theorem test_CE3 : nextIs (step { State.reset with mem := [(0x200, 0x12), (0x201, 0x34)] }) (fun t => t.pc == 0x0234) = true := by
  decide
/-- CE4: an odd PC fetches. -/
theorem test_CE4 : nextIs (step { State.reset with pc := 0x0201, mem := [(0x201, 0x60), (0x202, 0x2A)] })
    (fun t => t.getV 0x0 == 0x2A && t.pc == 0x0203) = true := by decide
/-- CE5: the last word of Memory fetches. -/
theorem test_CE5 : nextIs (step { State.reset with pc := 0x0FFE, mem := [(0xFFE, 0x60), (0xFFF, 0x01)] })
    (fun t => t.getV 0x0 == 0x01 && t.pc == 0x1000 && t.fault == none) = true := by decide
/-- CE7: a fetch across the end faults, and the timers do not tick. -/
theorem test_CE7 : nextIs (step { State.reset with pc := 0x0FFF, dt := 2 })
    (fun t => t.fault == some { kind := .memoryFault 0x1000, pc := 0x0FFF, op := none } && t.pc == 0x0FFF && t.dt == 2 &&
      t.phase == .running) = true := by decide
/-- CE20, second Step: the fetch fault names PC when PC itself is outside. -/
theorem test_CE20_fetch : nextIs (step { State.reset with pc := 0x10FE })
    (fun t => t.fault == some { kind := .memoryFault 0x10FE, pc := 0x10FE, op := none }) = true := by decide
/-- CE8: a latched machine does nothing. -/
theorem test_CE8 : nextIs (step latched) (fun t => t == latched) = true := by decide
theorem test_CE8_outcome : stepOutcome latched = some (.faulted someFault) := by decide
/-- CE9: Reset leaves the construction state. -/
theorem test_CE9 : hostReset latched = State.reset := by decide

/-! ### Display -/

/-- DI1. -/
theorem test_DI1 : nextIs (exec .op00E0 { State.reset with fb := State.reset.fb.set 20 (Vector.replicate 64 true) })
    (fun t => t.fb == State.reset.fb && t.pc == 0x0202) = true := by decide
/-- DI4: one collision suffices. -/
theorem test_DI4 : nextIs (exec (.opDXYN 0 1 1) { setup [] 0x300 [(0x300, 0x81)] with
      fb := State.reset.fb.set 0 ((Vector.replicate 64 false).set 0 true) })
    (fun t => pixel t.fb 0 0 == false && pixel t.fb 0 7 && t.getV 0xF == 1) = true := by decide
/-- DI8: clipped at the right edge. -/
theorem test_DI8 : nextIs (exec (.opDXYN 0 1 1) (setup [(0, 0x3C)] 0x300 [(0x300, 0xFF)]))
    (fun t => pixel t.fb 0 60 && pixel t.fb 0 63 && pixel t.fb 0 59 == false && pixel t.fb 0 0 == false &&
      pixel t.fb 1 0 == false && t.getV 0xF == 0) = true := by decide

/-! ### Control flow -/

/-- CF6. -/
theorem test_CF6 : nextIs (exec .op00EE { held 2 with stack := State.reset.stack.set 1 0x0456 })
    (fun t => t.pc == 0x0456 && t.sp == 1 && t.stackEntry 1 == 0x0456) = true := by decide
/-- CF7. -/
theorem test_CF7 : nextIs (step (at_ 0x00EE))
    (fun t => t.fault == some { kind := .stackUnderflow, pc := 0x0200, op := some 0x00EE } && t.pc == 0x0200) = true := by
  decide
/-- CF4: the sixteenth push is legal. -/
theorem test_CF4 : nextIs (exec (.op2NNN 0x300) (held 15))
    (fun t => t.stackEntry 15 == 0x0202 && t.sp == 16 && t.pc == 0x0300) = true := by decide
/-- CF5: the seventeenth is not. -/
theorem test_CF5 : nextIs (step (at_ 0x2300 (held 16)))
    (fun t => t.fault == some { kind := .stackOverflow, pc := 0x0200, op := some 0x2300 } && t.sp == 16 && t.pc == 0x0200) =
      true := by decide
/-- CF1. -/
theorem test_CF1 : nextIs (exec (.op1NNN 0xABC) State.reset) (fun t => t.pc == 0x0ABC) = true := by decide
/-- CF8, CF9. -/
theorem test_CF8 : nextIs (exec (.op3XNN 3 0x10) (setup [(3, 0x10)])) (fun t => t.pc == 0x0204) = true := by decide
theorem test_CF9 : nextIs (exec (.op3XNN 3 0x10) (setup [(3, 0x11)])) (fun t => t.pc == 0x0202) = true := by decide
/-- CF10. -/
theorem test_CF10 : nextIs (exec (.op4XNN 3 0x10) (setup [(3, 0x11)])) (fun t => t.pc == 0x0204) = true := by decide
/-- CF12, CF13. -/
theorem test_CF12 : nextIs (exec (.op5XY0 1 2) (setup [(1, 7), (2, 7)])) (fun t => t.pc == 0x0204) = true := by decide
theorem test_CF13 : nextIs (exec (.op5XY0 1 2) (setup [(1, 7), (2, 8)])) (fun t => t.pc == 0x0202) = true := by decide
/-- CF15. -/
theorem test_CF15 : nextIs (exec (.op9XY0 1 2) (setup [(1, 7), (2, 8)])) (fun t => t.pc == 0x0204) = true := by decide
/-- CF20: BNNN past 0xFFF. -/
theorem test_CF20 : nextIs (exec (.opBNNN 0xFFF) (setup [(0, 0xFF)])) (fun t => t.pc == 0x10FE) = true := by decide

/-! ### ALU -/

/-- AL2. -/
theorem test_AL2 : nextIs (exec (.op6XNN 0xF 0x12) (setup [(0xF, 7)])) (fun t => t.getV 0xF == 0x12) = true := by decide
/-- AL3. -/
theorem test_AL3 : nextIs (exec (.op7XNN 1 0x01) (setup [(1, 0xFF), (0xF, 7)]))
    (fun t => t.getV 1 == 0x00 && t.getV 0xF == 7) = true := by decide
/-- AL6. -/
theorem test_AL6 : nextIs (exec (.op8XY0 1 2) (setup [(2, 0x33)])) (fun t => t.getV 1 == 0x33) = true := by decide
/-- AL7, AL8, AL9. -/
theorem test_AL7 : nextIs (exec (.op8XY1 1 2) (setup [(1, 0x0F), (2, 0xF0), (0xF, 5)]))
    (fun t => t.getV 1 == 0xFF && t.getV 0xF == 5) = true := by decide
theorem test_AL8 : nextIs (exec (.op8XY2 1 2) (setup [(1, 0x3C), (2, 0x0F), (0xF, 5)]))
    (fun t => t.getV 1 == 0x0C && t.getV 0xF == 5) = true := by decide
theorem test_AL9 : nextIs (exec (.op8XY3 1 2) (setup [(1, 0xFF), (2, 0x0F), (0xF, 5)]))
    (fun t => t.getV 1 == 0xF0 && t.getV 0xF == 5) = true := by decide
/-- AL11, AL13. -/
theorem test_AL11 : nextIs (exec (.op8XY4 1 2) (setup [(1, 0x80), (2, 0x80)]))
    (fun t => t.getV 1 == 0x00 && t.getV 0xF == 1) = true := by decide
theorem test_AL13 : nextIs (exec (.op8XY4 1 0xF) (setup [(1, 0x10), (0xF, 0x20)]))
    (fun t => t.getV 1 == 0x30 && t.getV 0xF == 0) = true := by decide
/-- AL14 (8F14): both values of `P_FLAG_ORDER`. -/
theorem test_AL14 : ((setup [(0xF, 0xFF)]).writeResultAndFlag .flagLast 0xF 0x00 1).getV 0xF = 0x01 ∧
    ((setup [(0xF, 0xFF)]).writeResultAndFlag .resultLast 0xF 0x00 1).getV 0xF = 0x00 := by decide
/-- S3, AL15. -/
theorem test_S3 : nextIs (exec (.op8XY5 1 2) (setup [(1, 0x01), (2, 0x02)]))
    (fun t => t.getV 1 == 0xFF && t.getV 0xF == 0) = true := by decide
theorem test_AL15 : nextIs (exec (.op8XY5 1 2) (setup [(1, 0x05), (2, 0x05)]))
    (fun t => t.getV 1 == 0x00 && t.getV 0xF == 1) = true := by decide
/-- AL18, AL20: VY is ignored. -/
theorem test_AL18 : nextIs (exec (.op8XY6 1 0) (setup [(1, 0x05)])) (fun t => t.getV 1 == 0x02 && t.getV 0xF == 1) = true := by
  decide
theorem test_AL20 : nextIs (exec (.op8XY6 1 2) (setup [(1, 0x04), (2, 0xFF)]))
    (fun t => t.getV 1 == 0x02 && t.getV 0xF == 0) = true := by decide
/-- AL22, AL24. -/
theorem test_AL22 : nextIs (exec (.op8XY7 1 2) (setup [(1, 0x02), (2, 0x01)]))
    (fun t => t.getV 1 == 0xFF && t.getV 0xF == 0) = true := by decide
theorem test_AL24 : nextIs (exec (.op8XY7 1 2) (setup [(1, 0x09), (2, 0x09)]))
    (fun t => t.getV 1 == 0x00 && t.getV 0xF == 1) = true := by decide
/-- AL26, AL27. -/
theorem test_AL26 : nextIs (exec (.op8XYE 1 0) (setup [(1, 0x81)])) (fun t => t.getV 1 == 0x02 && t.getV 0xF == 1) = true := by
  decide
theorem test_AL27 : nextIs (exec (.op8XYE 1 0) (setup [(1, 0x7F)])) (fun t => t.getV 1 == 0xFE && t.getV 0xF == 0) = true := by
  decide
/-- AL30: with the byte A7 drawn. -/
theorem test_AL30 (h : Config.randByte 0 = 0xA7) :
    ∃ t, exec (.opCXNN 3 0x0F) State.reset = .next t ∧ t.getV 3 = 0x07 :=
  ⟨_, rfl, by rw [State.getV_setV_self]; simp [State.drawRand, State.reset, h]⟩
/-- AL31: a mask of 0 gives 0 whatever is drawn. -/
theorem test_AL31 : ∃ t, exec (.opCXNN 3 0x00) State.reset = .next t ∧ t.getV 3 = 0x00 := ⟨_, rfl, by simp⟩

/-! ### Index register and memory -/

/-- IM1. -/
theorem test_IM1 : nextIs (exec (.opANNN 0xFFF) State.reset) (fun t => t.i == 0x0FFF) = true := by decide
/-- IM3, IM4. -/
theorem test_IM3 : nextIs (exec (.opFX1E 0) (setup [(0, 1)] 0x0FFF)) (fun t => t.i == 0x1000 && t.getV 0xF == 0) = true := by
  decide
theorem test_IM4 : nextIs (exec (.opFX1E 0) (setup [(0, 1)] 0xFFFF)) (fun t => t.i == 0x0000) = true := by decide
/-- IM6, IM8. -/
theorem test_IM6 : nextIs (exec (.opFX29 0) (setup [(0, 0x0F)])) (fun t => t.i == 0x009B) = true := by decide
theorem test_IM8 : nextIs (exec (.opFX29 0) (setup [(0, 0xFF)])) (fun t => t.i == 0x054B) = true := by decide
/-- IM9. -/
theorem test_IM9 : nextIs (exec (.opFX33 0) (setup [(0, 0xFF)]))
    (fun t => t.mem.readList 0x300 3 == [2, 5, 5] && t.i == 0x0300) = true := by decide
/-- IM13. -/
theorem test_IM13 : nextIs (step (at_ 0xF033 (setup [(0, 0x9C)] 0x0FFE)))
    (fun t => t.fault == some { kind := .memoryFault 0x1000, pc := 0x0200, op := some 0xF033 } &&
      t.mem.readList 0xFFE 2 == [0, 0] && t.pc == 0x0200) = true := by decide
/-- IM14. -/
theorem test_IM14 : nextIs (exec (.opFX55 1) (setup [(0, 0x11), (1, 0x22), (2, 0x33)]))
    (fun t => t.mem.readList 0x300 3 == [0x11, 0x22, 0x00] && t.i == 0x0300) = true := by decide
/-- IM17. -/
theorem test_IM17 : nextIs (step (at_ 0xFF55 (setup [(0, 1)] 0x0FF1)))
    (fun t => t.fault == some { kind := .memoryFault 0x1000, pc := 0x0200, op := some 0xFF55 } &&
      t.mem.read 0xFF1 == 0) = true := by decide
/-- IM18. -/
theorem test_IM18 : nextIs (exec (.opFX65 2) (setup [(3, 0x77)] 0x300 [(0x300, 1), (0x301, 5), (0x302, 6)]))
    (fun t => t.getV 0 == 1 && t.getV 1 == 5 && t.getV 2 == 6 && t.getV 3 == 0x77 && t.i == 0x0300) = true := by decide
/-- IM20. -/
theorem test_IM20 : nextIs (step (at_ 0xF065 (setup [] 0x1000)))
    (fun t => t.fault == some { kind := .memoryFault 0x1000, pc := 0x0200, op := some 0xF065 } && t.getV 0 == 0) = true := by
  decide
/-- A write of the construction byte removes the cell, so equal memories are equal lists (log entry 8). -/
theorem test_memory_write_back : Memory.write (Memory.write [] 0x300 5) 0x300 0 = [] := by decide
/-- DI16's first glyph row, with the default font as a premise (70 R261). -/
theorem test_font_glyph_A (h : Config.font.toList = Config.defaultFont) : State.reset.mem.read 0x082 = 0xF0 := by
  have h50 : Config.font.toList[50]? = some 0xF0 := by rw [h]; rfl
  have : Config.font[50] = 0xF0 := by simpa using h50
  simpa [State.reset, Memory.read, Memory.initial, fontBase] using this

/-! ### Keypad and timers -/

/-- KT1, KT2. -/
theorem test_KT1 : nextIs (exec (.opEX9E 5) (pressing 7 (setup [(5, 7)]))) (fun t => t.pc == 0x0204) = true := by decide
theorem test_KT2 : nextIs (exec (.opEX9E 5) (setup [(5, 7)])) (fun t => t.pc == 0x0202) = true := by decide
/-- KT3. -/
theorem test_KT3 : nextIs (exec (.opEXA1 5) (setup [(5, 7)])) (fun t => t.pc == 0x0204) = true := by decide
/-- KT6. -/
theorem test_KT6 : nextIs (step (at_ 0xE5A1 (setup [(5, 0xFF)])))
    (fun t => t.fault == some { kind := .keyIndexFault 0xFF, pc := 0x0200, op := some 0xE5A1 }) = true := by decide
/-- KT7. -/
theorem test_KT7 : nextIs (step (at_ 0xF307 { State.reset with dt := 5 })) (fun t => t.getV 3 == 5 && t.dt == 4) = true := by
  decide
/-- KT9, KT10. -/
theorem test_KT9 : nextIs (step (at_ 0xF30A { setup [(3, 0x44)] with dt := 3, st := 2 }))
    (fun t => t.pc == 0x0200 && t.getV 3 == 0x44 && t.dt == 2 && t.st == 1) = true := by decide
theorem test_KT10 : nextIs (exec (.opFX0A 3) (pressing 9 (pressing 3))) (fun t => t.getV 3 == 3 && t.pc == 0x0202) = true := by
  decide
/-- KT12, KT14. -/
theorem test_KT12 : nextIs (step (at_ 0xF015 (setup [(0, 5)]))) (fun t => t.dt == 4) = true := by decide
theorem test_KT14 : nextIs (step (at_ 0xF015 { State.reset with dt := 9 })) (fun t => t.dt == 0) = true := by decide
/-- KT15, KT16. -/
theorem test_KT15 : nextIs (step (at_ 0xF018 (setup [(0, 2)]))) (fun t => t.st == 1 && soundActive t) = true := by decide
theorem test_KT16 : nextIs (step (at_ 0xF018 (setup [(0, 1)]))) (fun t => t.st == 0 && !soundActive t) = true := by decide

/-! ### Load -/

/-- S10. -/
theorem test_S10 : (loadRom [0x12, 0x34, 0x56, 0x78] State.reset).2 = .ok ∧
    (loadRom [0x12, 0x34, 0x56, 0x78] State.reset).1.mem.readList 0x200 5 = [0x12, 0x34, 0x56, 0x78, 0x00] ∧
    (loadRom [0x12, 0x34, 0x56, 0x78] State.reset).1.phase = .loaded := by decide
/-- LR4, LR5. -/
theorem test_LR4 : (loadRom [1, 2] (loadRom [] State.reset).1).2 = .loadError ∧ (loadRom [1, 2] latched).2 = .loadError := by
  decide

/-! ### Witnesses: states and operands that meet the hypotheses of each statement -/

theorem test_witness_EncodeOfStrictDecodeIsTheWord : decode .strict 0x8124 = .instr (.op8XY4 1 2) := by decide

/-- A word of a row, and a word of no row. -/
theorem test_witness_StrictDecodeRecognisesExactlyTheRows :
    decode .strict 0x8124 = .instr (.op8XY4 1 2) ∧ ∀ r ∈ opcodeRows, r.matchesWord 0x8128 = false := by decide

/-- Family 0 (a low byte of each kind), 5, 9, and another. -/
theorem test_witness_FamilyDecodeReadsTheProseFields :
    opFamily 0x01E0 = 0x0 ∧ fieldNN 0x01E0 = 0xE0 ∧ opFamily 0x0FEE = 0x0 ∧ fieldNN 0x0FEE = 0xEE ∧ opFamily 0x0100 = 0x0 ∧
    opFamily 0x5121 = 0x5 ∧ opFamily 0x934F = 0x9 ∧
    (opFamily 0x8124 ≠ 0x0 ∧ opFamily 0x8124 ≠ 0x5 ∧ opFamily 0x8124 ≠ 0x9) := by decide

theorem test_witness_NoTwoRowsMatchTheSameWord :
    rowOf (.op8XY4 0 0) ∈ opcodeRows ∧ (rowOf (.op8XY4 0 0)).matchesWord 0x8124 = true := by decide

theorem test_witness_StepRunsTheDecodedInstruction :
    (at_ 0x6A42).fault = none ∧ (at_ 0x6A42).pc.toNat + 1 < 0x1000 ∧ (Instr.op6XNN 0xA 0x42).wellFormed = true ∧
    decode Config.decodeMode (wordOfBytes ((at_ 0x6A42).mem.read (at_ 0x6A42).pc.toNat)
      ((at_ 0x6A42).mem.read ((at_ 0x6A42).pc.toNat + 1))) = .instr (.op6XNN 0xA 0x42) := by decide

theorem test_witness_UnknownWordOnlyAdvancesAndTicks :
    State.reset.fault = none ∧ State.reset.fetch = .ok 0x0000 ∧ decode Config.decodeMode 0x0000 = .unknown 0x0000 :=
  ⟨rfl, reset_fetch, unknown_0000⟩

/-- The boundary, the first PC outside, and the last. -/
theorem test_witness_FetchPastMemoryLatchesAFault :
    State.reset.fault = none ∧ 0x0FFF ≤ (State.reset.setPc 0x0FFF).pc.toNat ∧ 0x0FFF ≤ (State.reset.setPc 0x1000).pc.toNat ∧
    0x0FFF ≤ (State.reset.setPc 0xFFFF).pc.toNat := by decide

theorem test_witness_LatchedStepChangesNothing : latched.fault = some someFault := rfl

theorem test_witness_FaultEntryIsPrecise : (at_ 0x00EE).fault = none ∧
    ∃ t, step (at_ 0x00EE) = .next t ∧ (t.fault == some someFault) = true :=
  ⟨rfl, exists_next (by decide)⟩

/-- A state in which each condition of the fault table holds, and one in which none does. -/
theorem test_witness_FaultsHaveExactlyTheirCauses :
    (held 16).fault = none ∧ faultCause (.op2NNN 0) (held 16) = some .stackOverflow ∧ faultCause (.op2NNN 0) (held 15) = none ∧
    faultCause .op00EE (held 0) = some .stackUnderflow ∧ faultCause .op00EE (held 1) = none ∧
    faultCause (.opDXYN 0 0 2) (setup [] 0x0FFF) = some (.memoryFault 0x1000) ∧ faultCause (.opDXYN 0 0 1) (setup [] 0x0FFF) = none ∧
    faultCause (.opFX33 0) (setup [] 0x0FFE) = some (.memoryFault 0x1000) ∧ faultCause (.opFX33 0) (setup [] 0x0FFD) = none ∧
    faultCause (.opFX55 0xF) (setup [] 0x0FF1) = some (.memoryFault 0x1000) ∧ faultCause (.opFX55 0xF) (setup [] 0x0FF0) = none ∧
    faultCause (.opFX65 0) (setup [] 0xFFFF) = some (.memoryFault 0xFFFF) ∧ faultCause (.opFX65 0) (setup [] 0x0FFF) = none ∧
    faultCause (.opEX9E 5) (setup [(5, 0x10)]) = some (.keyIndexFault 0x10) ∧ faultCause (.opEXA1 5) (setup [(5, 0x0F)]) = none := by
  decide

/-- The two outcomes of a Step that runs an instruction (R107). -/
theorem test_outcome_ok : stepOutcome (at_ 0x6A42) = some .ok := by decide
theorem test_outcome_faulted : stepOutcome (at_ 0x00EE) = some (.faulted someFault) := by decide

/-- A Step that faults; one of another instruction; FX15; FX18; FX07. -/
theorem test_witness_TimersTickOncePerStep :
    (∃ t, step (at_ 0x00EE) = .next t ∧ (t.fault != none) = true) ∧
    (∃ t, step (at_ 0x6A42) = .next t ∧ (t.fault == none && (at_ 0x6A42).instrAt? == some (.op6XNN 0xA 0x42)) = true) ∧
    (∃ t, step (at_ 0xF015) = .next t ∧ (t.fault == none && (at_ 0xF015).instrAt? == some (.opFX15 0)) = true) ∧
    (∃ t, step (at_ 0xF018) = .next t ∧ (t.fault == none && (at_ 0xF018).instrAt? == some (.opFX18 0)) = true) ∧
    ∃ t, step (at_ 0xF307) = .next t ∧ (t.fault == none && (at_ 0xF307).instrAt? == some (.opFX07 3)) = true :=
  ⟨exists_next (by decide), exists_next (by decide), exists_next (by decide), exists_next (by decide), exists_next (by decide)⟩

theorem test_witness_StepKeepsMemoryCanonical : (at_ 0x6A42).mem.wf = true ∧ ∃ t, step (at_ 0x6A42) = .next t ∧ true = true :=
  ⟨by decide, exists_next (P := fun _ => true) (by decide)⟩

/-- A consistent latch that holds a fault, and the Step that sets it. -/
theorem test_witness_StepKeepsTheLatchConsistent :
    LatchConsistent State.reset ∧ LatchConsistent { at_ 0x00EE with fault := some someFault, phase := .running } ∧
      ∃ t, step (at_ 0x00EE) = .next t ∧ (t.fault == some someFault) = true := by
  refine ⟨(by intro f h; cases h), ?_, exists_next (by decide)⟩
  intro f h
  cases h
  exact ⟨rfl, rfl, by decide, rfl⟩

theorem test_witness_ReachableStatesSatisfyTheInvariants :
    Reachable State.reset ∧ Reachable (loadRom [0x12, 0x00] State.reset).1 :=
  ⟨.reset, .move (.load [0x12, 0x00]) .reset (by simp only [hostMove])⟩

/-- Each of the two instructions changes a pixel somewhere. -/
theorem test_witness_OnlyDisplayInstructionsChangePixels :
    (∃ t, step (at_ 0xD011 (setup [] 0x300 [(0x300, 0x80)])) = .next t ∧ pixel t.fb 0 0 = true) ∧
    pixel State.reset.fb 0 0 = false ∧
    (∃ t, step (at_ 0x00E0 { State.reset with fb := State.reset.fb.set 0 (Vector.replicate 64 true) }) = .next t ∧
      (!pixel t.fb 0 0) = true) ∧
    pixel (State.reset.fb.set 0 (Vector.replicate 64 true)) 0 0 = true :=
  ⟨exists_next (by decide), by decide, exists_next (by decide), by decide⟩

theorem test_witness_OnlyCallAndReturnChangeTheStack :
    (∃ t, step (at_ 0x2300) = .next t ∧ (t.sp != (at_ 0x2300).sp && t.stack != (at_ 0x2300).stack) = true) ∧
    ∃ t, step (at_ 0x00EE (held 1)) = .next t ∧ (t.sp != (held 1).sp) = true :=
  ⟨exists_next (by decide), exists_next (by decide)⟩

/-- A byte each store changes, at the end of its block. -/
theorem test_witness_MemoryChangesOnlyWhereAStoreGoes :
    (∃ t, step (at_ 0xF033 (setup [(0, 9)])) = .next t ∧ (t.mem.read 0x302 != (at_ 0xF033 (setup [(0, 9)])).mem.read 0x302) = true) ∧
    ∃ t, step (at_ 0xF155 (setup [(1, 9)])) = .next t ∧ (t.mem.read 0x301 != (at_ 0xF155 (setup [(1, 9)])).mem.read 0x301) = true :=
  ⟨exists_next (by decide), exists_next (by decide)⟩

theorem test_witness_VFChangesOnlyAsFlagOrDestination :
    ∃ t, step (at_ 0x8124 (setup [(1, 0xFF), (2, 0x01)])) = .next t ∧
      (t.getV flagReg != (at_ 0x8124 (setup [(1, 0xFF), (2, 0x01)])).getV flagReg) = true := exists_next (by decide)

theorem test_witness_KeypadIsReadOnlyByKeyInstructions :
    (∃ t, step (at_ 0x6A42) = .next t ∧ true = true) ∧ ∀ i, (at_ 0x6A42).instrAt? = some i → readsKeypad i = false := by
  refine ⟨exists_next (P := fun _ => true) (by decide), ?_⟩
  have h : (at_ 0x6A42).instrAt? = some (.op6XNN 0xA 0x42) := by decide
  intro i hi
  rw [h] at hi
  cases hi
  rfl

theorem test_witness_OnlyCXNNDrawsARandomByte :
    ((at_ 0xC3FF).fault = none ∧ (at_ 0xC3FF).instrAt? = some (.opCXNN 3 0xFF) ∧ ∃ t, step (at_ 0xC3FF) = .next t ∧ true = true) ∧
    ((at_ 0x6A42).fault = none ∧ (at_ 0x6A42).instrAt? = some (.op6XNN 0xA 0x42) ∧ ∃ t, step (at_ 0x6A42) = .next t ∧ true = true) :=
  ⟨⟨rfl, by decide, exists_next (P := fun _ => true) (by decide)⟩, rfl, by decide, exists_next (P := fun _ => true) (by decide)⟩

theorem test_witness_StepLeavesThePhaseRunning :
    (at_ 0x6A42).fault = none ∧ ∃ t, step (at_ 0x6A42) = .next t ∧ (t.phase == .running) = true :=
  ⟨rfl, exists_next (by decide)⟩

/-- N = 0 with I outside Memory; the last row at 0xFFF; a set bit on an on pixel, and none. -/
theorem test_witness_SpriteDrawXorsThePixels :
    ((0 : Nibble) = 0 ∧ (setup [] 0xFFFF).i = 0xFFFF) ∧ (setup [] 0x0FFF).i.toNat + (1 : Nibble).toNat ≤ 0x1000 ∧
    (spriteBit (setup [] 0x300 [(0x300, 0x80)]) 0 1 1 0 0 = true ∧ pixel (State.reset.fb.set 0 (Vector.replicate 64 true)) 0 0 = true) ∧
    (∀ py px, py < 32 → px < 64 → spriteBit State.reset 0 1 0 py px = true → pixel State.reset.fb py px = false) := by
  refine ⟨by decide, by decide, by decide, ?_⟩
  intro py px _ _ h
  simp [spriteBit] at h
  omega

theorem test_witness_DrawingTwiceRestoresTheScreen :
    (0 : Nibble) ≠ flagReg ∧ (1 : Nibble) ≠ flagReg ∧ (setup [] 0x0FF1).i.toNat + (0xF : Nibble).toNat ≤ 0x1000 := by decide

/-- The sixteenth call; the return from depth one. -/
theorem test_witness_CallPushesTheReturnAddress : (held 15).sp.val < 16 ∧ (held 0).sp.val < 16 := by decide
theorem test_witness_ReturnPopsTheCallStack : 0 < (held 1).sp.val ∧ 0 < (held 16).sp.val := by decide
theorem test_witness_StackFaultsLatch : (held 16).fault = none ∧ (held 16).sp.val = 16 ∧ (held 0).fault = none ∧ (held 0).sp.val = 0 := by
  decide
theorem test_witness_CallThenReturnResumesAfterTheCall : (held 15).sp.val < 16 := by decide

/-- The last block inside Memory, each. -/
theorem test_witness_DecimalDigitsAreStored : (setup [] 0x0FFD).mem.wf = true ∧ (setup [] 0x0FFD).i.toNat + 3 ≤ 0x1000 := by decide
theorem test_witness_RegistersAreStored :
    (setup [] 0x0FF0).mem.wf = true ∧ (setup [] 0x0FF0).i.toNat + (0xF : Nibble).toNat + 1 ≤ 0x1000 := by decide
theorem test_witness_RegistersAreLoaded : (setup [] 0x0FF0).i.toNat + (0xF : Nibble).toNat + 1 ≤ 0x1000 := by decide

/-- One byte too many, each. -/
theorem test_witness_AccessesPastMemoryLatchAFault :
    (setup [] 0x0FFF).fault = none ∧ ((2 : Nibble) ≠ 0 ∧ 0x1000 < (setup [] 0x0FFF).i.toNat + (2 : Nibble).toNat) ∧
    0x1000 < (setup [] 0x0FFE).i.toNat + 3 ∧ 0x1000 < (setup [] 0x0FF1).i.toNat + (0xF : Nibble).toNat + 1 := by decide

/-- The last block of each inside Memory, the least one, and a later state to fetch in: the one the store left. -/
theorem test_witness_StoredCodeIsFetchedNext :
    ((setup [] 0x0FFD).mem.wf = true ∧ (setup [] 0x0FFD).i.toNat + 3 ≤ 0x1000) ∧
    ((setup [] 0x0FF0).mem.wf = true ∧ (setup [] 0x0FF0).i.toNat + (0xF : Nibble).toNat + 1 ≤ 0x1000) ∧
    (setup [] 0x0202).i.toNat + (0 : Nibble).toNat + 1 ≤ 0x1000 ∧
    (∃ t, exec (.opFX33 0) (setup [(0, 0x9C)] 0x0202) = .next t ∧
      (decide (t.pc.toNat + 1 < 0x1000) && t.opcode? == some 0x0105) = true) ∧
    ∃ t, exec (.opFX55 0) (setup [(0, 0x12)] 0x0203) = .next t ∧
      (decide (t.pc.toNat + 1 < 0x1000) && t.opcode? == some 0x0012) = true :=
  ⟨by decide, by decide, by decide, exists_next (by decide), exists_next (by decide)⟩

/-- The last key, and the first index that is none. -/
theorem test_witness_KeySkipsReadTheLevelOfKeyVX :
    ((setup [(5, 0x0F)]).getV 5).toNat < 16 ∧ (16 ≤ ((setup [(5, 0x10)]).getV 5).toNat ∧ (setup [(5, 0x10)]).fault = none) := by
  decide

/-- The first key, the last alone, and none. -/
theorem test_witness_WaitForKeyTakesTheLeastPressedKey :
    ((pressing 0).key[(0 : Fin 16)] = true ∧ ∀ j : Fin 16, j < 0 → (pressing 0).key[j] = false) ∧
    ((pressing 15).key[(15 : Fin 16)] = true ∧ ∀ j : Fin 16, j < 15 → (pressing 15).key[j] = false) ∧
    ∀ k : Fin 16, State.reset.key[k] = false := by decide

/-- The largest image, one byte more, and a phase that takes none. -/
theorem test_witness_RomLoadCopiesTheImageOrRefuses :
    (State.reset.mem.wf = true ∧ State.reset.phase = .loadable ∧ (List.replicate 3584 (0xAA : Byte)).length ≤ 3584) ∧
    3584 < (List.replicate 3585 (0xAA : Byte)).length ∧ latched.phase ≠ .loadable := by
  rw [List.length_replicate, List.length_replicate]
  decide

theorem test_witness_OnlyResetClearsALatchedFault :
    latched.fault = some someFault ∧ HostMove.step ≠ .reset ∧ (∃ t, hostMove .step latched = .next t ∧ true = true) ∧
    hostMove (.keys (Vector.replicate 16 true)) latched = .next (setKeys (Vector.replicate 16 true) latched) ∧
    hostMove (.load []) latched = .next (loadRom [] latched).1 :=
  ⟨rfl, by decide, exists_next (P := fun _ => true) (by decide), rfl, rfl⟩

/-- Each move, from the reset state, which has both invariants. -/
theorem test_witness_HostMovesKeepTheInvariants :
    State.reset.mem.wf = true ∧ LatchConsistent State.reset ∧
    (∃ t, hostMove .step (at_ 0x00EE) = .next t ∧ (t.fault == some someFault) = true) ∧
    hostMove (.load [0x12, 0x00]) State.reset = .next (loadRom [0x12, 0x00] State.reset).1 ∧
    hostMove .reset State.reset = .next (hostReset State.reset) :=
  ⟨rfl, (by intro f h; cases h), exists_next (by decide), by simp only [hostMove], rfl⟩

end Sys2Proof.Tests
end

section
/-! The timers over one instruction and over one Step (10_state.md R28; 40_cycle_engine.md R106): the shared operations leave both
alone, FX15 and FX18 each set one, and the tick that ends the Step takes one off each. -/

namespace Sys2Proof.Machine

/-! ### The shared operations leave both timers alone -/

theorem State.skipIf_timers (s : State) (c : Bool) : (s.skipIf c).dt = s.dt ∧ (s.skipIf c).st = s.st := by
  rw [State.skipIf_eq]
  exact ⟨rfl, rfl⟩

theorem State.writeResultAndFlag_timers (s : State) (o : FlagOrder) (x : Nibble) (res f : Byte) :
    (s.writeResultAndFlag o x res f).dt = s.dt ∧ (s.writeResultAndFlag o x res f).st = s.st := by
  obtain ⟨w, hw⟩ := State.writeResultAndFlag_frame s o x res f
  rw [hw]
  exact ⟨rfl, rfl⟩

theorem State.setRegs_timers (s : State) (k : Nat) (bytes : List Byte) :
    (s.setRegs k bytes).dt = s.dt ∧ (s.setRegs k bytes).st = s.st := by
  obtain ⟨w, hw⟩ := State.setRegs_frame s k bytes
  rw [hw]
  exact ⟨rfl, rfl⟩

theorem State.storeAtI_timers (s : State) (bytes : List Byte) :
    (s.storeAtI bytes).dt = s.dt ∧ (s.storeAtI bytes).st = s.st := by
  unfold State.storeAtI
  split <;> exact ⟨rfl, rfl⟩

theorem State.skipIfKey_timers (s : State) (x : Nibble) (level : Bool) :
    (s.skipIfKey x level).dt = s.dt ∧ (s.skipIfKey x level).st = s.st := by
  rw [State.skipIfKey_eq]
  split
  · exact State.skipIf_timers ..
  · exact ⟨rfl, rfl⟩

theorem State.push_timers {s t : State} {w : Word} (h : s.push w = some t) : t.dt = s.dt ∧ t.st = s.st := by
  obtain ⟨stk, d, rfl, -⟩ := State.push_eq_some h
  exact ⟨rfl, rfl⟩

theorem State.pop_timers {s t : State} {w : Word} (h : s.pop = some (w, t)) : t.dt = s.dt ∧ t.st = s.st := by
  obtain ⟨d, rfl, -⟩ := State.pop_eq_some h
  exact ⟨rfl, rfl⟩

/-! ### One instruction -/

/-- What an instruction leaves in DT: FX15 sets it (45_keypad_timers.md R214). -/
def dtAfter (i : Instr) (s : State) : Byte :=
  match i with
  | .opFX15 x => s.getV x
  | _ => s.dt

/-- What an instruction leaves in ST: FX18 sets it (45_keypad_timers.md R215). -/
def stAfter (i : Instr) (s : State) : Byte :=
  match i with
  | .opFX18 x => s.getV x
  | _ => s.st

theorem dtAfter_of_ne {i : Instr} (s : State) (h : ∀ x, i ≠ .opFX15 x) : dtAfter i s = s.dt := by
  unfold dtAfter
  split
  · exact absurd rfl (h _)
  · rfl

theorem stAfter_of_ne {i : Instr} (s : State) (h : ∀ x, i ≠ .opFX18 x) : stAfter i s = s.st := by
  unfold stAfter
  split
  · exact absurd rfl (h _)
  · rfl

/-- Before the tick, no instruction but FX15 and FX18 has touched a timer, whether it completed or took a fault. -/
theorem exec_timers {i : Instr} {s t : State} (h : exec i s = .next t) : t.dt = dtAfter i s ∧ t.st = stAfter i s := by
  cases i with
  | op00EE =>
    simp only [exec, exec00EE] at h
    split at h
    · cases h; exact ⟨rfl, rfl⟩
    · next hp =>
      cases h
      have htimers := State.pop_timers hp
      exact htimers
  | op2NNN nnn =>
    simp only [exec, exec2NNN] at h
    split at h
    · cases h; exact ⟨rfl, rfl⟩
    · next hp =>
      cases h
      have htimers := State.push_timers hp
      exact htimers
  | opDXYN x y n =>
    simp only [exec, execDXYN] at h
    split at h <;> cases h <;> exact ⟨rfl, rfl⟩
  | opFX0A x =>
    simp only [exec, execFX0A] at h
    split at h <;> cases h <;> exact ⟨rfl, rfl⟩
  | opFX65 x =>
    simp only [exec, execFX65] at h
    split at h
    · cases h; exact ⟨rfl, rfl⟩
    · cases h; exact State.setRegs_timers ..
  | op8XY4 x y => cases h; exact State.writeResultAndFlag_timers ..
  | op8XY5 x y => cases h; exact State.writeResultAndFlag_timers ..
  | op8XY6 x y => cases h; exact State.writeResultAndFlag_timers ..
  | op8XY7 x y => cases h; exact State.writeResultAndFlag_timers ..
  | op8XYE x y => cases h; exact State.writeResultAndFlag_timers ..
  | op3XNN x nn => cases h; exact State.skipIf_timers ..
  | op4XNN x nn => cases h; exact State.skipIf_timers ..
  | op5XY0 x y => cases h; exact State.skipIf_timers ..
  | op9XY0 x y => cases h; exact State.skipIf_timers ..
  | opEX9E x => cases h; exact State.skipIfKey_timers ..
  | opEXA1 x => cases h; exact State.skipIfKey_timers ..
  | opFX33 x => cases h; exact State.storeAtI_timers ..
  | opFX55 x => cases h; exact State.storeAtI_timers ..
  -- The rest only write fields, by updates that neither branch nor recurse; FX15 and FX18 are among them.
  | _ => cases h; exact ⟨rfl, rfl⟩

/-- FX07 reads DT as the instruction finds it (45_keypad_timers.md R212). -/
theorem exec_opFX07_getV {x : Nibble} {s t : State} (h : exec (.opFX07 x) s = .next t) : t.getV x = s.dt := by
  cases h
  exact State.getV_setV_self ..

/-! ### One Step -/

/-- A Step from an unfaulted state, told by the instruction at PC: a fault of the fetch or of the instruction, the no-op of a word
that is no instruction, or the instruction completed and then the tick. -/
theorem step_cases {s t : State} (hs : s.fault = none) (h : step s = .next t) :
    (∃ k, t = s.beginStep.raise k) ∨
      (s.instrAt? = none ∧ t = s.beginStep.advance.tick) ∨
      ∃ i u, s.instrAt? = some i ∧ exec i s.beginStep = .next u ∧ u.fault = none ∧ t = u.tick := by
  have result : ∀ {r}, cycle s = .next r → t = r.1 := fun hc =>
    Host.Outcome.next.inj (h.symm.trans (step_of_cycle hc).1)
  obtain ⟨a, -, hc⟩ | ⟨op, hf, hd, hc⟩ | ⟨-, -, k, -, -, -, hc⟩ | ⟨op, i, u, hf, hd, hu, huf, -, -, hc⟩ := cycle_cases s hs
  · exact .inl ⟨_, result hc⟩
  · exact .inr (.inl ⟨by simp only [State.instrAt?, hf, hd], result hc⟩)
  · exact .inl ⟨k, result hc⟩
  · exact .inr (.inr ⟨i, u, by simp only [State.instrAt?, hf, hd], hu, huf, result hc⟩)

end Sys2Proof.Machine

open Sys2Proof Sys2Proof.Machine

/-- Settles O14, by the three ends of a Step: a fault writes only the latch, an unrecognised word leaves the timers to the tick,
and a completed instruction leaves them as `dtAfter` and `stAfter` say. -/
theorem timersTickOncePerStep : Obligations.TimersTickOncePerStep := by
  intro s t hs ht
  obtain ⟨k, rfl⟩ | ⟨hi, rfl⟩ | ⟨i, u, hi, hu, huf, rfl⟩ := step_cases hs ht
  · exact ⟨fun _ => ⟨rfl, rfl⟩, fun h => absurd h (State.raise_fault_ne_none _ k)⟩
  · exact ⟨fun h => absurd hs h, fun _ => by simp [hi, tickDown_toNat]⟩
  · obtain ⟨hdt, hst⟩ := exec_timers hu
    refine ⟨fun h => absurd huf h, fun _ => ?_⟩
    simp only [hi, ne_eq, Option.some.injEq, State.tick_dt, State.tick_st, State.tick_getV, tickDown_toNat, hdt, hst]
    refine ⟨fun h => ?_, fun h => ?_, ?_, ?_, ?_⟩
    · rw [dtAfter_of_ne _ h, State.beginStep_dt]
    · rw [stAfter_of_ne _ h, State.beginStep_st]
    · rintro x rfl; rfl
    · rintro x rfl; rfl
    · rintro x rfl; exact (exec_opFX07_getV hu).trans (State.beginStep_dt s)

end

section
/-! The immediate skips (42_control_flow.md R143, R144, R148): each is the fetch advance and then a skip, which together write PC only. -/

namespace Sys2Proof.Machine

/-- PC after an advance and a skip: past one word when the condition holds, else at the next word (42_control_flow.md R148). -/
theorem State.advance_skipIf_pc (s : State) (c : Bool) :
    (s.advance.skipIf c).pc = if c then s.pc + 4 else s.pc + 2 := by
  rw [State.skipIf_eq]
  cases c with
  | false => rfl
  | true => exact BitVec.add_assoc s.pc 2 2

theorem State.advance_skipIf_unchanged (s : State) (c : Bool) : Unchanged [.pc] s (s.advance.skipIf c) := by
  rw [State.skipIf_eq]
  intro p hp
  cases p with
  | pc => exact absurd (List.mem_singleton_self _) hp
  | stack | regs | mem => exact fun _ => rfl
  | fb => exact fun _ _ => rfl
  | _ => rfl

theorem exec_op3XNN (x : Nibble) (nn : Byte) (s : State) :
    exec (.op3XNN x nn) s = .next (s.advance.skipIf (s.getV x == nn)) := rfl

theorem exec_op4XNN (x : Nibble) (nn : Byte) (s : State) :
    exec (.op4XNN x nn) s = .next (s.advance.skipIf (s.getV x != nn)) := rfl

end Sys2Proof.Machine

open Sys2Proof Sys2Proof.Machine

/-- Settles O35: the rows are those of the table, and each instruction is an advance and a skip, on VX = NN for 3XNN and on
VX ≠ NN for 4XNN. -/
theorem immediateSkipsPassOneWord : Obligations.ImmediateSkipsPassOneWord := by
  intro s x nn
  refine ⟨rfl, rfl, ⟨_, exec_op3XNN x nn s, ?_, State.advance_skipIf_unchanged s _⟩,
    ⟨_, exec_op4XNN x nn s, ?_, State.advance_skipIf_unchanged s _⟩⟩
  · simp only [State.advance_skipIf_pc, beq_iff_eq]
  · simp only [State.advance_skipIf_pc, bne_iff_ne, ne_eq, ite_not]

end

section
/-! The instructions that write one register (43_alu.md R161 to R163): each is the fetch advance and then a write of VX, VF taken
as any other register. -/

namespace Sys2Proof.Machine

theorem State.advance_setV_regsUnchangedBut (s : State) (x : Nibble) (b : Byte) :
    RegsUnchangedBut [x] s (s.advance.setV x b) := by
  intro r hr
  have hne : r ≠ x := fun h => hr (List.mem_singleton.mpr h)
  rw [State.getV_setV_of_ne _ _ hne, State.advance_getV]

theorem State.advance_setV_unchanged (s : State) (x : Nibble) (b : Byte) :
    Unchanged [.regs, .pc] s (s.advance.setV x b) := by
  intro p hp
  cases p with
  | regs | pc => simp at hp
  | stack | mem => exact fun _ => rfl
  | fb => exact fun _ _ => rfl
  | _ => rfl

theorem State.advance_setV_writesRegister (s : State) (x : Nibble) (b : Byte) :
    Claims.WritesRegister s (s.advance.setV x b) x b.toNat :=
  ⟨congrArg BitVec.toNat (State.getV_setV_self _ x b), State.advance_setV_regsUnchangedBut s x b, rfl,
    State.advance_setV_unchanged s x b⟩

theorem exec_op6XNN (x : Nibble) (nn : Byte) (s : State) :
    exec (.op6XNN x nn) s = .next (s.advance.setV x nn) := rfl

theorem exec_op7XNN (x : Nibble) (nn : Byte) (s : State) :
    exec (.op7XNN x nn) s = .next (s.advance.setV x (s.getV x + nn)) := rfl

theorem exec_op8XY0 (x y : Nibble) (s : State) :
    exec (.op8XY0 x y) s = .next (s.advance.setV x (s.getV y)) := rfl

end Sys2Proof.Machine

open Sys2Proof Sys2Proof.Machine

/-- Settles O37: the rows are those of the table, and each instruction is an advance and a write of VX; the sum that 7XNN writes
is the byte sum, which is the sum modulo 256. -/
theorem loadsAddAndMoveWriteOnlyVX : Obligations.LoadsAddAndMoveWriteOnlyVX := by
  intro s x y nn
  refine ⟨rfl, rfl, rfl, ⟨_, exec_op6XNN x nn s, State.advance_setV_writesRegister s x nn⟩,
    ⟨_, exec_op7XNN x nn s, ?_⟩, ⟨_, exec_op8XY0 x y s, State.advance_setV_writesRegister s x (s.getV y)⟩⟩
  rw [← BitVec.toNat_add]
  exact State.advance_setV_writesRegister s x (s.getV x + nn)

end

section
/-! The load of I (44_index_memory.md R190): ANNN is the fetch advance and then a write of I. -/

namespace Sys2Proof.Machine

/-- A 12-bit address is widened without loss, so I is at most 0x0FFF after ANNN (44_index_memory.md R190). -/
theorem toNat_address (nnn : Addr12) : (address nnn).toNat = nnn.toNat :=
  BitVec.toNat_setWidth_of_le (by decide)

theorem State.advance_setI_unchanged (s : State) (w : Word) : Unchanged [.i, .pc] s (s.advance.setI w) := by
  intro p hp
  cases p with
  | i | pc => simp at hp
  | regs | stack | mem => exact fun _ => rfl
  | fb => exact fun _ _ => rfl
  | _ => rfl

theorem exec_opANNN (nnn : Addr12) (s : State) : exec (.opANNN nnn) s = .next (s.advance.setI (address nnn)) := rfl

end Sys2Proof.Machine

open Sys2Proof Sys2Proof.Machine

/-- Settles O43: the row is that of the table, and the instruction is an advance and a write of I with the widened address. -/
theorem loadIndexWritesOnlyI : Obligations.LoadIndexWritesOnlyI := by
  intro s nnn
  exact ⟨rfl, _, exec_opANNN nnn s, toNat_address nnn, rfl, State.advance_setI_unchanged s _⟩

end

section
/-! The timer instructions (45_keypad_timers.md R212, R214, R215): FX07 is the fetch advance and then a write of VX, FX15 and FX18
the advance and then a write of one timer. -/

namespace Sys2Proof.Machine

theorem State.advance_setDt_unchanged (s : State) (b : Byte) : Unchanged [.dt, .pc] s (s.advance.setDt b) := by
  intro p hp
  cases p with
  | dt | pc => simp at hp
  | regs | stack | mem => exact fun _ => rfl
  | fb => exact fun _ _ => rfl
  | _ => rfl

theorem State.advance_setSt_unchanged (s : State) (b : Byte) : Unchanged [.st, .pc] s (s.advance.setSt b) := by
  intro p hp
  cases p with
  | st | pc => simp at hp
  | regs | stack | mem => exact fun _ => rfl
  | fb => exact fun _ _ => rfl
  | _ => rfl

/-- The tick takes one off ST before the output is read, so a sound lasts past it only from 2 up (10_state.md R29;
40_cycle_engine.md R106). -/
theorem soundActive_tick (s : State) : soundActive s.tick = true ↔ 2 ≤ s.st.toNat := by
  rw [soundActive, decide_eq_true_iff, State.tick_st, tickDown_toNat]
  omega

theorem exec_opFX07 (x : Nibble) (s : State) : exec (.opFX07 x) s = .next (s.advance.setV x s.dt) := rfl

theorem exec_opFX15 (x : Nibble) (s : State) : exec (.opFX15 x) s = .next (s.advance.setDt (s.getV x)) := rfl

theorem exec_opFX18 (x : Nibble) (s : State) : exec (.opFX18 x) s = .next (s.advance.setSt (s.getV x)) := rfl

end Sys2Proof.Machine

open Sys2Proof Sys2Proof.Machine

/-- Settles O52: the rows are those of the table, and each instruction is an advance and one write, of VX with DT for FX07, of a
timer with VX for FX15 and FX18; what the tick then leaves is the tick of VX. -/
theorem timerInstructionsMoveTheTimers : Obligations.TimerInstructionsMoveTheTimers := by
  intro s x
  have hFX07 := State.advance_setV_writesRegister s x s.dt
  have hFX15 := State.advance_setDt_unchanged s (s.getV x)
  have hFX18 := State.advance_setSt_unchanged s (s.getV x)
  exact ⟨rfl, rfl, ⟨_, exec_opFX07 x s, hFX07⟩,
    ⟨_, exec_opFX15 x s, rfl, tickDown_toNat _, rfl, hFX15⟩,
    ⟨_, exec_opFX18 x s, rfl, tickDown_toNat _, soundActive_tick _, rfl, hFX18⟩⟩

end

section
/-! What one instruction may write, as a table, and the one lemma about it that the rules over every Step are derived from
(40_cycle_engine.md R104; 60_exceptions.md R231, R236): an instruction takes its own fault, or writes no part outside its row. -/

namespace Sys2Proof.Machine
open Claims

/-- A part holds the same value in two states, as data: stronger than `Part.same`, which compares Memory as it reads. -/
def Part.kept (p : Part) (s t : State) : Prop :=
  match p with
  | .mem => t.mem = s.mem
  | .regs => t.v = s.v
  | .i => t.i = s.i
  | .pc => t.pc = s.pc
  | .stack => t.stack = s.stack
  | .sp => t.sp = s.sp
  | .dt => t.dt = s.dt
  | .st => t.st = s.st
  | .fb => t.fb = s.fb
  | .key => t.key = s.key
  | .phase => t.phase = s.phase
  | .fault => t.fault = s.fault
  | .draws => t.draws = s.draws

theorem Part.kept.same {p : Part} {s t : State} (h : p.kept s t) : p.same s t := by
  cases p with
  | mem => exact fun a => congrArg (Memory.read · a) h
  | regs => exact fun r => congrArg (fun v : Vector Byte 16 => v[r.toNat]'r.isLt) h
  | stack => exact fun k => congrArg (fun v : Vector Word 16 => v[k]?.getD 0) h
  | fb => exact fun y x => congrArg (pixel · y x) h
  | _ => exact h

theorem Part.kept.trans {p : Part} {s t u : State} (h : p.kept s t) (h' : p.kept t u) : p.kept s u := by
  cases p <;> exact Eq.trans h' h

/-- Every part but the listed ones is kept. -/
def WritesOnly (ps : List Part) (s t : State) : Prop := ∀ p, p ∉ ps → p.kept s t

namespace WritesOnly

variable {ps qs : List Part} {s t u : State}

theorem unchanged (h : WritesOnly ps s t) (hsub : ∀ p ∈ ps, p ∈ qs) : Unchanged qs s t :=
  fun p hp => (h p fun hmem => hp (hsub p hmem)).same

theorem mono (h : WritesOnly ps s t) (hsub : ∀ p ∈ ps, p ∈ qs) : WritesOnly qs s t :=
  fun p hp => h p fun hmem => hp (hsub p hmem)

theorem trans (h : WritesOnly ps s t) (h' : WritesOnly qs t u) : WritesOnly (ps ++ qs) s u := fun p hp =>
  have hp := not_or.mp (mt List.mem_append.mpr hp)
  (h p hp.1).trans (h' p hp.2)

end WritesOnly

/-! ### The operations -/

section
variable (s : State)

theorem State.setV_writesOnly (x : Nibble) (b : Byte) : WritesOnly [.regs] s (s.setV x b) := by
  intro p hp
  cases p with
  | regs => simp at hp
  | _ => rfl

theorem State.setI_writesOnly (w : Word) : WritesOnly [.i] s (s.setI w) := by
  intro p hp
  cases p with
  | i => simp at hp
  | _ => rfl

theorem State.setPc_writesOnly (w : Word) : WritesOnly [.pc] s (s.setPc w) := by
  intro p hp
  cases p with
  | pc => simp at hp
  | _ => rfl

theorem State.setDt_writesOnly (b : Byte) : WritesOnly [.dt] s (s.setDt b) := by
  intro p hp
  cases p with
  | dt => simp at hp
  | _ => rfl

theorem State.setSt_writesOnly (b : Byte) : WritesOnly [.st] s (s.setSt b) := by
  intro p hp
  cases p with
  | st => simp at hp
  | _ => rfl

theorem State.setMem_writesOnly (m : Memory) : WritesOnly [.mem] s (s.setMem m) := by
  intro p hp
  cases p with
  | mem => simp at hp
  | _ => rfl

theorem State.setFb_writesOnly (f : FrameBuffer) : WritesOnly [.fb] s (s.setFb f) := by
  intro p hp
  cases p with
  | fb => simp at hp
  | _ => rfl

theorem State.setPhase_writesOnly (f : Phase) : WritesOnly [.phase] s (s.setPhase f) := by
  intro p hp
  cases p with
  | phase => simp at hp
  | _ => rfl

theorem State.drawRand_writesOnly : WritesOnly [.draws] s s.drawRand.2 := by
  intro p hp
  cases p with
  | draws => simp at hp
  | _ => rfl

theorem State.raise_writesOnly (k : FaultKind) : WritesOnly [.fault] s (s.raise k) := by
  intro p hp
  cases p with
  | fault => simp at hp
  | _ => rfl

theorem State.tick_writesOnly : WritesOnly [.dt, .st] s s.tick := by
  intro p hp
  cases p with
  | dt | st => simp at hp
  | _ => rfl

theorem State.advance_writesOnly : WritesOnly [.pc] s s.advance := s.setPc_writesOnly _

theorem State.beginStep_writesOnly : WritesOnly [.phase] s s.beginStep := s.setPhase_writesOnly _

theorem State.advance_skipIf_writesOnly (c : Bool) : WritesOnly [.pc] s (s.advance.skipIf c) := by
  rw [State.skipIf_eq]
  exact s.setPc_writesOnly _

theorem State.writeResultAndFlag_writesOnly (o : FlagOrder) (x : Nibble) (res f : Byte) :
    WritesOnly [.regs] s (s.writeResultAndFlag o x res f) := by
  obtain ⟨w, hw⟩ := State.writeResultAndFlag_frame s o x res f
  rw [hw]
  intro p hp
  cases p with
  | regs => simp at hp
  | _ => rfl

theorem State.setRegs_writesOnly (k : Nat) (bytes : List Byte) : WritesOnly [.regs] s (s.setRegs k bytes) := by
  obtain ⟨w, hw⟩ := State.setRegs_frame s k bytes
  rw [hw]
  intro p hp
  cases p with
  | regs => simp at hp
  | _ => rfl

end

theorem State.push_writesOnly {s t : State} {w : Word} (h : s.push w = some t) : WritesOnly [.stack, .sp] s t := by
  obtain ⟨stk, d, rfl, -⟩ := State.push_eq_some h
  intro p hp
  cases p with
  | stack | sp => simp at hp
  | _ => rfl

theorem State.pop_writesOnly {s t : State} {w : Word} (h : s.pop = some (w, t)) : WritesOnly [.sp] s t := by
  obtain ⟨d, rfl, -⟩ := State.pop_eq_some h
  intro p hp
  cases p with
  | sp => simp at hp
  | _ => rfl

/-! ### The instructions -/

/-- The parts an instruction that completes may write. -/
def writes : Instr → List Part
  | .op00E0 => [.pc, .fb]
  | .op00EE => [.pc, .sp]
  | .op2NNN _ => [.pc, .stack, .sp]
  | .op1NNN _ | .opBNNN _ => [.pc]
  | .op3XNN _ _ | .op4XNN _ _ | .op5XY0 _ _ | .op9XY0 _ _ | .opEX9E _ | .opEXA1 _ => [.pc]
  | .op6XNN _ _ | .op7XNN _ _ | .op8XY0 _ _ | .op8XY1 _ _ | .op8XY2 _ _ | .op8XY3 _ _ => [.pc, .regs]
  | .op8XY4 _ _ | .op8XY5 _ _ | .op8XY6 _ _ | .op8XY7 _ _ | .op8XYE _ _ => [.pc, .regs]
  | .opFX07 _ | .opFX0A _ | .opFX65 _ => [.pc, .regs]
  | .opCXNN _ _ => [.pc, .draws, .regs]
  | .opDXYN _ _ _ => [.pc, .fb, .regs]
  | .opANNN _ | .opFX1E _ | .opFX29 _ => [.pc, .i]
  | .opFX15 _ => [.pc, .dt]
  | .opFX18 _ => [.pc, .st]
  | .opFX33 _ | .opFX55 _ => [.pc, .mem]

/-- The fault of a block at I is that of the range check (20_memory.md R54). -/
theorem pastMemory_eq (s : State) (n : Nat) : pastMemory s n = (outOfRange? s.i.toNat n).map .memoryFault := by
  unfold pastMemory
  split
  · next h => rw [outOfRange?_eq_some h.1 h.2]; rfl
  · next h => rw [outOfRange?_eq_none.mpr (by unfold memorySize; omega)]; rfl

/-- How an instruction `i` that began in `s` may end, by the fault table (60_exceptions.md R231): with the fault its own condition
gives, or completed within its row of `writes`. -/
def EndsIn (i : Instr) (s t : State) : Prop :=
  (∃ k, faultCause i s = some k ∧ t = s.raise k) ∨ (faultCause i s = none ∧ WritesOnly (writes i) s t)

theorem State.storeAtI_cases (s : State) (bytes : List Byte) :
    (∃ k, pastMemory s bytes.length = some k ∧ s.storeAtI bytes = s.raise k) ∨
      (pastMemory s bytes.length = none ∧ WritesOnly [.pc, .mem] s (s.storeAtI bytes)) := by
  rw [pastMemory_eq]
  unfold State.storeAtI
  cases outOfRange? s.i.toNat bytes.length with
  | some a => exact .inl ⟨_, rfl, rfl⟩
  | none => exact .inr ⟨rfl, s.advance_writesOnly.trans (s.advance.setMem_writesOnly _)⟩

/-- The key skips share their row of the fault table and of `writes` (45_keypad_timers.md R210, R211). -/
theorem State.skipIfKey_endsIn (s : State) (x : Nibble) (level : Bool) : EndsIn (.opEX9E x) s (s.skipIfKey x level) := by
  rw [State.skipIfKey_eq]
  by_cases h : (s.getV x).toNat < 16
  · rw [dif_pos h]
    exact .inr ⟨if_neg (Nat.not_le_of_lt h), s.advance_skipIf_writesOnly _⟩
  · rw [dif_neg h]
    exact .inl ⟨_, if_pos (Nat.le_of_not_lt h), rfl⟩

/-! ### The instructions that may fault, or wait, by the result of their check -/

section
variable {s : State}

theorem exec_op00EE_of_pop_none (h : s.advance.pop = none) : exec .op00EE s = .next (s.raise .stackUnderflow) := by
  simp only [exec, exec00EE, h]

theorem exec_op00EE_of_pop_some {r : Word × State} (h : s.advance.pop = some r) :
    exec .op00EE s = .next (r.2.setPc r.1) := by
  simp only [exec, exec00EE, h]

theorem exec_op2NNN_of_push_none {nnn : Addr12} (h : s.advance.push s.advance.pc = none) :
    exec (.op2NNN nnn) s = .next (s.raise .stackOverflow) := by
  simp only [exec, exec2NNN, h]

theorem exec_op2NNN_of_push_some {nnn : Addr12} {t : State} (h : s.advance.push s.advance.pc = some t) :
    exec (.op2NNN nnn) s = .next (t.setPc (address nnn)) := by
  simp only [exec, exec2NNN, h]

theorem exec_opDXYN_of_outside {x y n : Nibble} {a : Nat} (h : outOfRange? s.i.toNat n.toNat = some a) :
    exec (.opDXYN x y n) s = .next (s.raise (.memoryFault a)) := by
  simp only [exec, execDXYN, h]

theorem exec_opDXYN_of_inside {x y n : Nibble} (h : outOfRange? s.i.toNat n.toNat = none) :
    exec (.opDXYN x y n) s = .next ((s.advance.setFb (s.spriteDraw x y n).fb).setV flagReg
      (flagByte (s.spriteDraw x y n).collision)) := by
  simp only [exec, execDXYN, h]

theorem exec_opFX65_of_outside {x : Nibble} {a : Nat} (h : outOfRange? s.i.toNat (x.toNat + 1) = some a) :
    exec (.opFX65 x) s = .next (s.raise (.memoryFault a)) := by
  simp only [exec, execFX65, h]

theorem exec_opFX65_of_inside {x : Nibble} (h : outOfRange? s.i.toNat (x.toNat + 1) = none) :
    exec (.opFX65 x) s = .next (s.advance.setRegs 0 (s.mem.readList s.i.toNat (x.toNat + 1))) := by
  simp only [exec, execFX65, h]

theorem exec_opFX0A_of_key {x : Nibble} {k : Byte} (h : s.firstKey? = some k) :
    exec (.opFX0A x) s = .next (s.advance.setV x k) := by
  simp only [exec, execFX0A, h]

theorem exec_opFX0A_of_no_key {x : Nibble} (h : s.firstKey? = none) :
    exec (.opFX0A x) s = .next (s.advance.setPc (s.advance.pc - 2)) := by
  simp only [exec, execFX0A, h]

end

/-- Every instruction answers a next state, by its row of the fault table or within its row of `writes`. -/
theorem exec_endsIn (i : Instr) (s : State) : ∃ t, exec i s = .next t ∧ EndsIn i s t := by
  cases i with
  | op00EE =>
    cases hp : s.advance.pop with
    | none => exact ⟨_, exec_op00EE_of_pop_none hp, .inl ⟨_, if_pos (State.pop_eq_none.mp hp), rfl⟩⟩
    | some r =>
      obtain ⟨w, t⟩ := r
      have hheld : s.sp.val ≠ 0 := fun h => nomatch hp.symm.trans (State.pop_eq_none.mpr h)
      exact ⟨_, exec_op00EE_of_pop_some hp, .inr ⟨if_neg hheld,
        (s.advance_writesOnly.trans ((State.pop_writesOnly hp).trans (t.setPc_writesOnly w))).mono (by simp [writes])⟩⟩
  | op2NNN nnn =>
    cases hp : s.advance.push s.advance.pc with
    | none => exact ⟨_, exec_op2NNN_of_push_none hp, .inl ⟨_, if_pos (State.push_eq_none.mp hp), rfl⟩⟩
    | some t =>
      have hroom : s.sp.val ≠ 16 := fun h => nomatch hp.symm.trans (State.push_eq_none.mpr h)
      exact ⟨_, exec_op2NNN_of_push_some hp, .inr ⟨if_neg hroom,
        (s.advance_writesOnly.trans ((State.push_writesOnly hp).trans (t.setPc_writesOnly _))).mono (by simp [writes])⟩⟩
  | opDXYN x y n =>
    simp only [EndsIn, faultCause, pastMemory_eq]
    cases hr : outOfRange? s.i.toNat n.toNat with
    | some a => exact ⟨_, exec_opDXYN_of_outside hr, .inl ⟨_, rfl, rfl⟩⟩
    | none => exact ⟨_, exec_opDXYN_of_inside hr, .inr ⟨rfl,
        s.advance_writesOnly.trans ((s.advance.setFb_writesOnly _).trans (State.setV_writesOnly _ _ _))⟩⟩
  | opFX65 x =>
    simp only [EndsIn, faultCause, pastMemory_eq]
    cases hr : outOfRange? s.i.toNat (x.toNat + 1) with
    | some a => exact ⟨_, exec_opFX65_of_outside hr, .inl ⟨_, rfl, rfl⟩⟩
    | none => exact ⟨_, exec_opFX65_of_inside hr, .inr ⟨rfl,
        s.advance_writesOnly.trans (s.advance.setRegs_writesOnly _ _)⟩⟩
  | opFX0A x =>
    cases hk : s.firstKey? with
    | some k => exact ⟨_, exec_opFX0A_of_key hk, .inr ⟨rfl,
        s.advance_writesOnly.trans (s.advance.setV_writesOnly _ _)⟩⟩
    | none => exact ⟨_, exec_opFX0A_of_no_key hk, .inr ⟨rfl,
        (s.advance_writesOnly.trans (s.advance.setPc_writesOnly _)).mono (by simp [writes])⟩⟩
  | opEX9E x | opEXA1 x => exact ⟨_, rfl, s.skipIfKey_endsIn x _⟩
  | opFX33 x => exact ⟨_, rfl, s.storeAtI_cases (decimalDigits (s.getV x))⟩
  | opFX55 x => exact ⟨_, rfl, by simpa [EndsIn, faultCause, writes] using s.storeAtI_cases (s.regBlock x)⟩
  | op8XY4 x y | op8XY5 x y | op8XY6 x y | op8XY7 x y | op8XYE x y =>
    exact ⟨_, rfl, .inr ⟨rfl, s.advance_writesOnly.trans (s.advance.writeResultAndFlag_writesOnly _ _ _ _)⟩⟩
  | op3XNN x nn | op4XNN x nn | op5XY0 x y | op9XY0 x y =>
    exact ⟨_, rfl, .inr ⟨rfl, s.advance_skipIf_writesOnly _⟩⟩
  | op1NNN nnn | opBNNN nnn => exact ⟨_, rfl, .inr ⟨rfl, s.setPc_writesOnly _⟩⟩
  | op00E0 => exact ⟨_, rfl, .inr ⟨rfl, s.advance_writesOnly.trans (s.advance.setFb_writesOnly _)⟩⟩
  | op6XNN x nn | op7XNN x nn | op8XY0 x y | op8XY1 x y | op8XY2 x y | op8XY3 x y | opFX07 x =>
    exact ⟨_, rfl, .inr ⟨rfl, s.advance_writesOnly.trans (s.advance.setV_writesOnly _ _)⟩⟩
  | opCXNN x nn => exact ⟨_, rfl, .inr ⟨rfl,
      s.advance_writesOnly.trans (s.advance.drawRand_writesOnly.trans (State.setV_writesOnly _ _ _))⟩⟩
  | opANNN nnn | opFX1E x | opFX29 x =>
    exact ⟨_, rfl, .inr ⟨rfl, s.advance_writesOnly.trans (s.advance.setI_writesOnly _)⟩⟩
  | opFX15 x => exact ⟨_, rfl, .inr ⟨rfl, s.advance_writesOnly.trans (s.advance.setDt_writesOnly _)⟩⟩
  | opFX18 x => exact ⟨_, rfl, .inr ⟨rfl, s.advance_writesOnly.trans (s.advance.setSt_writesOnly _)⟩⟩

theorem endsIn_of_exec {i : Instr} {s t : State} (h : exec i s = .next t) : EndsIn i s t := by
  obtain ⟨u, hu, hends⟩ := exec_endsIn i s
  cases h.symm.trans hu
  exact hends

end Sys2Proof.Machine
end

section
/-! What a Step may change: the parts every Step may write, and those the instruction at PC may write (40_cycle_engine.md R100 to R110). -/

namespace Sys2Proof.Machine
open Claims

/-! ### The instruction at PC -/

theorem State.instrAt?_eq_some {s : State} {i : Instr} :
    s.instrAt? = some i ↔ ∃ op, s.fetch = .ok op ∧ decode Config.decodeMode op = .instr i := by
  unfold State.instrAt?
  cases s.fetch with
  | error a => simp
  | ok op => cases hd : decode Config.decodeMode op <;> simp [hd]

/-! ### A Step, by the latch and the instruction -/

/-- A latched fault makes a Step the identity (R108). -/
theorem cycle_of_fault {s : State} {f : FaultInfo} (h : s.fault = some f) : cycle s = .next (s, .faulted f) := by
  simp only [cycle, h]

/-- An unfaulted Step runs the instruction at PC in phase Running and then ends as `finishStep` says (R100, R109). -/
theorem cycle_of_instrAt {s t : State} {i : Instr} (hs : s.fault = none) (hi : s.instrAt? = some i)
    (ht : exec i s.beginStep = .next t) : cycle s = .next (finishStep t) := by
  obtain ⟨op, hf, hd⟩ := State.instrAt?_eq_some.mp hi
  simp only [cycle, hs, hf, hd, executeDecoded, ht]

/-- The parts a Step may write whatever it executes: those of the fetch, the tick, the phase and the latch. -/
def stepParts : List Part := [.pc, .dt, .st, .phase, .fault]

/-- A Step either writes no part but those every Step may write, or completes the instruction at PC and ticks. -/
theorem step_ends {s t : State} (h : step s = .next t) :
    WritesOnly stepParts s t ∨
      ∃ i u, s.fault = none ∧ s.instrAt? = some i ∧ exec i s.beginStep = .next u ∧ u.fault = none ∧ t = u.tick := by
  cases hs : s.fault with
  | some f =>
    cases h.symm.trans (step_of_cycle (cycle_of_fault hs)).1
    exact .inl fun p _ => by cases p <;> rfl
  | none =>
    obtain ⟨k, rfl⟩ | ⟨-, rfl⟩ | ⟨i, u, hi, hu, huf, rfl⟩ := step_cases hs h
    · exact .inl ((s.beginStep_writesOnly.trans (s.beginStep.raise_writesOnly k)).mono (by decide))
    · exact .inl ((s.beginStep_writesOnly.trans
        (s.beginStep.advance_writesOnly.trans (State.tick_writesOnly _))).mono (by decide))
    · exact .inr ⟨i, u, rfl, hi, hu, huf, rfl⟩

/-- An instruction that leaves no fault latched wrote nothing outside its row. -/
theorem writesOnly_of_exec {i : Instr} {s t : State} (h : exec i s = .next t) (ht : t.fault = none) :
    WritesOnly (writes i) s t := by
  obtain ⟨k, -, rfl⟩ | ⟨-, hw⟩ := endsIn_of_exec h
  · exact absurd ht (s.raise_fault_ne_none k)
  · exact hw

/-- A part outside `stepParts` that a Step changes is one the instruction at PC may write. -/
theorem instrAt_of_not_kept {s t : State} {p : Part} (h : step s = .next t) (hp : p ∉ stepParts) (hk : ¬ p.kept s t) :
    ∃ i, s.instrAt? = some i ∧ p ∈ writes i := by
  obtain hw | ⟨i, u, -, hi, hu, huf, rfl⟩ := step_ends h
  · exact absurd (hw p hp) hk
  · refine ⟨i, hi, by_contra fun hnot => hk ?_⟩
    have hstep := s.beginStep_writesOnly.trans ((writesOnly_of_exec hu huf).trans u.tick_writesOnly)
    exact hstep p fun hmem => by simp [stepParts] at hp hmem; tauto

theorem fault_phase_key_not_written (i : Instr) : .fault ∉ writes i ∧ .phase ∉ writes i ∧ .key ∉ writes i := by
  cases i <;> simp [writes]

/-! ### Faults -/

/-- An instruction leaves exactly the fault its row of the fault table gives (60_exceptions.md R231, R237). -/
theorem exec_fault {i : Instr} {s t : State} (hs : s.fault = none) (h : exec i s = .next t) :
    t.fault = (faultCause i s).map s.faultInfo := by
  obtain ⟨k, hk, rfl⟩ | ⟨hk, hw⟩ := endsIn_of_exec h
  · simp [hk, hs]
  · rw [hk, hw .fault (fault_phase_key_not_written i).1, hs]; rfl

/-- The fault table's conditions are those `holdsAt` names (60_exceptions.md R231). -/
theorem holdsAt_of_faultCause {i : Instr} {s : State} {k : FaultKind} (h : faultCause i s = some k) : k.holdsAt s := by
  have block : ∀ n, pastMemory s n = some k → k.holdsAt s := fun n hn => by
    obtain ⟨-, rfl⟩ := Option.ite_none_right_eq_some.mp hn |>.imp_right Option.some.inj
    exact le_max_right ..
  have key : ∀ b : Byte, (if 0x10 ≤ b.toNat then some (.keyIndexFault b) else none) = some k → k.holdsAt s := fun b hb => by
    obtain ⟨hle, rfl⟩ := Option.ite_none_right_eq_some.mp hb |>.imp_right Option.some.inj
    exact hle
  cases i with
  | op00EE | op2NNN nnn =>
    obtain ⟨hsp, rfl⟩ := Option.ite_none_right_eq_some.mp h |>.imp_right Option.some.inj
    exact hsp
  | opDXYN x y n | opFX33 x | opFX55 x | opFX65 x => exact block _ h
  | opEX9E x | opEXA1 x => exact key _ h
  | _ => cases h

/-- Of the state, a fault's condition looks at the stack's depth alone. -/
theorem FaultKind.holdsAt_congr {k : FaultKind} {s t : State} (h : t.sp = s.sp) : k.holdsAt t ↔ k.holdsAt s := by
  cases k with
  | stackOverflow | stackUnderflow => simp only [FaultKind.holdsAt, h]
  | _ => rfl

/-- A Step that latches a fault: what it leaves, the outcome, and that the fault's condition holds (60_exceptions.md R231, R236, R237). -/
theorem step_latches {s t : State} {f : FaultInfo} (hs : s.fault = none) (h : step s = .next t) (hf : t.fault = some f) :
    t = s.beginStep.raise f.kind ∧ f = s.faultInfo f.kind ∧ f.kind.holdsAt s ∧ stepOutcome s = some (.faulted f) := by
  have raised : ∀ {k : FaultKind}, k.holdsAt s → cycle s = .next (s.beginStep.raise k, .faulted (s.faultInfo k)) →
      t = s.beginStep.raise f.kind ∧ f = s.faultInfo f.kind ∧ f.kind.holdsAt s ∧ stepOutcome s = some (.faulted f) := by
    intro k hk hc
    obtain ⟨hstep, hout⟩ := step_of_cycle hc
    cases h.symm.trans hstep
    have hinfo : f = s.beginStep.faultInfo k := by simpa [hs] using hf.symm
    subst hinfo
    exact ⟨rfl, rfl, hk, hout⟩
  have unfaulted : ∀ {u o}, cycle s = .next (u, o) → u.fault = none → False := by
    intro u o hc hu
    cases h.symm.trans (step_of_cycle hc).1
    cases hu.symm.trans hf
  obtain ⟨a, ha, hc⟩ | ⟨op, -, -, hc⟩ | ⟨op, i, k, -, -, hk, hc⟩ | ⟨op, i, u, -, -, -, huf, -, -, hc⟩ := cycle_cases s hs
  · refine raised ?_ hc
    rw [State.fetch_eq] at ha
    split at ha
    · cases ha
    · cases ha; exact le_max_right ..
  · exact (unfaulted hc hs).elim
  · refine raised ?_ hc
    have hcause := exec_fault (s := s.beginStep) hs hk
    rw [State.raise_fault, State.beginStep_fault, hs, Option.getD_none] at hcause
    obtain ⟨k', hk', hinfo⟩ := Option.map_eq_some_iff.mp hcause.symm
    obtain rfl : k' = k := congrArg FaultInfo.kind hinfo
    exact (FaultKind.holdsAt_congr s.beginStep_sp).mp (holdsAt_of_faultCause hk')
  · exact (unfaulted hc huf).elim

end Sys2Proof.Machine
end

section
/-! The two invariants: Memory stays canonical (log entry 8) and a latched fault stays consistent with the state (60_exceptions.md sections 1
and 2), over a Step, over any move of the host, and so in every reachable state. -/

namespace Sys2Proof.Machine

/-! ### Memory -/

/-- How many bytes an instruction stores from I up (44_index_memory.md R193, R194). -/
def storeLength : Instr → Nat
  | .opFX33 _ => 3
  | .opFX55 x => x.toNat + 1
  | _ => 0

/-- Memory is left as it was, or has a block of `n` bytes that lies inside it stored from I up. -/
def StoresBlock (n : Nat) (s t : State) : Prop :=
  t.mem = s.mem ∨
    ∃ bytes, bytes.length = n ∧ s.i.toNat + bytes.length ≤ memorySize ∧ t.mem = s.mem.writeList s.i.toNat bytes

theorem State.storeAtI_storesBlock (s : State) (bytes : List Byte) : StoresBlock bytes.length s (s.storeAtI bytes) := by
  unfold State.storeAtI
  cases h : outOfRange? s.i.toNat bytes.length with
  | some a => exact .inl rfl
  | none =>
    obtain hnil | hfit := outOfRange?_eq_none.mp h
    · rw [List.length_eq_zero_iff.mp hnil]
      exact .inl rfl
    · exact .inr ⟨bytes, rfl, hfit, rfl⟩

theorem exec_storesBlock {i : Instr} {s t : State} (h : exec i s = .next t) : StoresBlock (storeLength i) s t := by
  have framed : .mem ∉ writes i → StoresBlock (storeLength i) s t := fun hmem => by
    obtain ⟨k, -, rfl⟩ | ⟨-, hw⟩ := endsIn_of_exec h
    · exact .inl rfl
    · exact .inl (hw .mem hmem)
  cases i with
  | opFX33 x => cases h; exact s.storeAtI_storesBlock (decimalDigits (s.getV x))
  | opFX55 x =>
    cases h
    have hblock := s.storeAtI_storesBlock (s.regBlock x)
    rwa [State.length_regBlock] at hblock
  | _ => exact framed (by simp [writes])

/-- What a Step can do to Memory: nothing, or the block store of the instruction at PC (20_memory.md section 2). -/
theorem step_storesBlock {s t : State} (h : step s = .next t) :
    t.mem = s.mem ∨ ∃ i, s.instrAt? = some i ∧ StoresBlock (storeLength i) s t := by
  obtain hw | ⟨i, u, -, hi, hu, -, rfl⟩ := step_ends h
  · exact .inl (hw .mem (by decide))
  · have hblock := exec_storesBlock hu
    exact .inr ⟨i, hi, hblock⟩

theorem StoresBlock.wf {n : Nat} {s t : State} (h : StoresBlock n s t) (hs : s.mem.wf = true) : t.mem.wf = true := by
  obtain hmem | ⟨bytes, -, hfit, hmem⟩ := h
  · rwa [hmem]
  · rw [hmem]
    exact Memory.wf_writeList bytes hs (.inr hfit)

theorem step_mem_wf {s t : State} (hs : s.mem.wf = true) (h : step s = .next t) : t.mem.wf = true := by
  obtain hmem | ⟨i, -, hblock⟩ := step_storesBlock h
  · rwa [hmem]
  · exact hblock.wf hs

/-! ### The latch -/

/-- With no fault latched there is nothing to be consistent with. -/
theorem latchConsistent_of_unfaulted {s : State} (h : s.fault = none) : LatchConsistent s :=
  fun _ hf => nomatch h.symm.trans hf

theorem step_latchConsistent {s t : State} (hs : LatchConsistent s) (h : step s = .next t) : LatchConsistent t := by
  cases hsf : s.fault with
  | some f =>
    cases h.symm.trans (step_of_cycle (cycle_of_fault hsf)).1
    exact hs
  | none =>
    intro f hf
    obtain ⟨rfl, hinfo, hk, -⟩ := step_latches hsf h hf
    exact ⟨rfl, congrArg FaultInfo.pc hinfo, congrArg FaultInfo.op hinfo, (FaultKind.holdsAt_congr rfl).mpr hk⟩

/-- New key levels leave everything the latch is compared with alone. -/
theorem setKeys_latchConsistent (k : Vector Bool 16) {s : State} (hs : LatchConsistent s) : LatchConsistent (setKeys k s) := by
  intro f hf
  obtain ⟨hphase, hpc, hop, hk⟩ := hs f hf
  exact ⟨hphase, hpc, hop, (FaultKind.holdsAt_congr rfl).mpr hk⟩

/-- A ROM load is refused while a fault is latched: the phase is then Running (70_reset_and_hazards.md R264). -/
theorem loadRom_latchConsistent (bytes : List Byte) {s : State} (hs : LatchConsistent s) : LatchConsistent (loadRom bytes s).1 := by
  cases hsf : s.fault with
  | some f =>
    obtain ⟨hphase, -⟩ := hs f hsf
    rwa [loadRom_running bytes hphase]
  | none =>
    obtain ⟨-, -, he⟩ | ⟨-, he⟩ := loadRom_cases bytes s <;> rw [he]
    · exact latchConsistent_of_unfaulted hsf
    · exact hs

theorem reset_latchConsistent : LatchConsistent State.reset := latchConsistent_of_unfaulted rfl

/-! ### The host -/

theorem hostMove_invariants {m : HostMove} {s t : State} (hwf : s.mem.wf = true) (hlatch : LatchConsistent s)
    (h : hostMove m s = .next t) : t.mem.wf = true ∧ LatchConsistent t := by
  obtain ⟨-, hstep⟩ | ⟨k, -, rfl⟩ | ⟨bytes, -, rfl⟩ | ⟨-, rfl⟩ := hostMove_cases h
  · exact ⟨step_mem_wf hwf hstep, step_latchConsistent hlatch hstep⟩
  · exact ⟨hwf, setKeys_latchConsistent k hlatch⟩
  · exact ⟨loadRom_mem_wf bytes hwf, loadRom_latchConsistent bytes hlatch⟩
  · exact ⟨State.reset_mem_wf, latchConsistent_of_unfaulted rfl⟩

end Sys2Proof.Machine

open Sys2Proof Sys2Proof.Machine

/-- Settles O15: a Step leaves Memory alone or stores one block that lies inside it, and a block store keeps the canonical form. -/
theorem stepKeepsMemoryCanonical : Obligations.StepKeepsMemoryCanonical := fun _ _ => step_mem_wf

/-- Settles O16: a latched machine stays as it is, and a Step that latches a fault records PC, the opcode and a condition that holds. -/
theorem stepKeepsTheLatchConsistent : Obligations.StepKeepsTheLatchConsistent := fun _ _ => step_latchConsistent

/-- Settles O56, by the kinds of move: a Step keeps both invariants, new keys and a load touch nothing the latch is compared with (a
load is refused once a fault is latched), and Reset has both. -/
theorem hostMovesKeepTheInvariants : Obligations.HostMovesKeepTheInvariants := fun _ _ _ => hostMove_invariants

/-- Settles O17: nothing is listed in Memory and nothing is latched. -/
theorem resetStateSatisfiesTheInvariants : Obligations.ResetStateSatisfiesTheInvariants :=
  ⟨State.reset_mem_wf, reset_latchConsistent⟩

/-- Settles O18, by induction on the moves from reset. -/
theorem reachableStatesSatisfyTheInvariants : Obligations.ReachableStatesSatisfyTheInvariants := by
  intro s hs
  induction hs with
  | reset => exact ⟨State.reset_mem_wf, reset_latchConsistent⟩
  | move m _ hmove ih =>
    obtain ⟨hwf, hlatch⟩ := ih
    exact hostMove_invariants hwf hlatch hmove

end

section
/-! The Step, case by case (40_cycle_engine.md section 1; 60_exceptions.md sections 1 and 2): a latched machine, a fetch past Memory, an
unrecognised word, an instruction that completes and one that faults. -/

namespace Sys2Proof.Machine

/-- A Step is available at every state (R111). -/
theorem exists_step (s : State) : ∃ t, step s = .next t := by
  cases hs : s.fault with
  | some f => exact ⟨_, (step_of_cycle (cycle_of_fault hs)).1⟩
  | none =>
    obtain ⟨a, -, hc⟩ | ⟨op, -, -, hc⟩ | ⟨op, i, k, -, -, -, hc⟩ | ⟨op, i, u, -, -, -, -, -, -, hc⟩ :=
      cycle_cases s hs <;> exact ⟨_, (step_of_cycle hc).1⟩

/-- An instruction that leaves no fault ends in the tick and `Ok` (R106, R107). -/
theorem finishStep_of_unfaulted {t : State} (h : t.fault = none) : finishStep t = (t.tick, .ok) := by
  simp only [finishStep, h]

/-- An instruction that took a fault ends in no tick and `Faulted` (60_exceptions.md R236). -/
theorem finishStep_of_fault {t : State} {f : FaultInfo} (h : t.fault = some f) : finishStep t = (t, .faulted f) := by
  simp only [finishStep, h]

theorem finishStep_fst (t : State) : (finishStep t).1 = if t.fault = none then t.tick else t := by
  cases h : t.fault with
  | none => rw [finishStep_of_unfaulted h, if_pos rfl]
  | some f => rw [finishStep_of_fault h, if_neg (Option.some_ne_none f)]

theorem step_of_completed {s t : State} {i : Instr} (hs : s.fault = none) (hi : s.instrAt? = some i)
    (ht : exec i s.beginStep = .next t) (htf : t.fault = none) : step s = .next t.tick := by
  rw [(step_of_cycle (cycle_of_instrAt hs hi ht)).1, finishStep_of_unfaulted htf]

/-- A fetch that fits reads the instruction at PC from Memory (R101, R103). -/
theorem State.instrAt?_of_decode {s : State} {i : Instr} (hpc : s.pc.toNat + 1 < 0x1000)
    (hd : decode Config.decodeMode (wordOfBytes (s.mem.read s.pc.toNat) (s.mem.read (s.pc.toNat + 1))) = .instr i) :
    s.instrAt? = some i :=
  State.instrAt?_eq_some.mpr ⟨_, by rw [State.fetch_eq, if_pos (show s.pc.toNat + 2 ≤ memorySize from hpc)], hd⟩

/-- An unrecognised word is the advance and the tick (R105). -/
theorem cycle_of_unknown {s : State} {op : Word} (hs : s.fault = none) (hf : s.fetch = .ok op)
    (hd : decode Config.decodeMode op = .unknown op) : cycle s = .next (s.beginStep.advance.tick, .unknown op) := by
  simp only [cycle, hs, hf, hd, executeDecoded]

/-- A fetch that would leave Memory names the lowest address outside (20_memory.md R56). -/
theorem State.fetch_of_outside {s : State} (h : 0x0FFF ≤ s.pc.toNat) : s.fetch = .error (max s.pc.toNat 0x1000) := by
  rw [State.fetch_eq, if_neg (by unfold memorySize; omega)]
  rfl

theorem cycle_of_fetch_error {s : State} {a : Nat} (hs : s.fault = none) (hf : s.fetch = .error a) :
    cycle s = .next (finishStep (s.beginStep.raise (.memoryFault a))) := by
  simp only [cycle, hs, hf]

theorem State.beginStep_raise_fault {s : State} (k : FaultKind) (hs : s.fault = none) :
    (s.beginStep.raise k).fault = some (s.faultInfo k) := by
  rw [State.raise_fault, State.beginStep_fault, hs]
  rfl

/-- A Step of an unfaulted machine leaves the phase Running (R109). -/
theorem step_phase {s t : State} (hs : s.fault = none) (h : step s = .next t) : t.phase = .running := by
  obtain ⟨k, rfl⟩ | ⟨-, rfl⟩ | ⟨i, u, -, hu, huf, rfl⟩ := step_cases hs h
  · rfl
  · rfl
  · have hkept : u.phase = s.beginStep.phase := writesOnly_of_exec hu huf .phase (fault_phase_key_not_written i).2.1
    exact hkept

end Sys2Proof.Machine

open Sys2Proof Sys2Proof.Machine

/-- Settles O7: the bytes at PC are the instruction's, and what it leaves decides between the tick with `Ok` and no tick with
`Faulted`. -/
theorem stepRunsTheDecodedInstruction : Obligations.StepRunsTheDecodedInstruction := by
  intro s i hs hpc _ hd
  obtain ⟨t, ht, -⟩ := exec_endsIn i (s.setPhase .running)
  obtain ⟨hstep, hout⟩ := step_of_cycle (cycle_of_instrAt hs (State.instrAt?_of_decode hpc hd) ht)
  rw [ht]
  refine ⟨by rw [hstep, finishStep_fst], fun u hu => ?_⟩
  cases hu
  exact ⟨fun h => by rw [hout, finishStep_of_unfaulted h], fun f h => by rw [hout, finishStep_of_fault h]⟩

/-- Settles O8: the Step is the advance and the tick. -/
theorem unknownWordOnlyAdvancesAndTicks : Obligations.UnknownWordOnlyAdvancesAndTicks := by
  intro s op hs hf hd
  obtain ⟨hstep, hout⟩ := step_of_cycle (cycle_of_unknown hs hf hd)
  have hframe := s.beginStep_writesOnly.trans (s.beginStep.advance_writesOnly.trans (State.tick_writesOnly _))
  exact ⟨_, hstep, hout, rfl, tickDown_toNat _, tickDown_toNat _, rfl, hframe.unchanged (by decide)⟩

/-- Settles O9: the fetch names the larger of PC and 0x1000, and no opcode is recorded since none was fetched. -/
theorem fetchPastMemoryLatchesAFault : Obligations.FetchPastMemoryLatchesAFault := by
  intro s hs hpc
  have hf := State.fetch_of_outside hpc
  have hop : s.opcode? = none := by simp only [State.opcode?, hf]
  have hlatched := State.beginStep_raise_fault (.memoryFault (max s.pc.toNat 0x1000)) hs
  have hstep := (step_of_cycle (cycle_of_fetch_error hs hf)).1
  rw [finishStep_of_fault hlatched] at hstep
  refine ⟨_, hstep, rfl, (s.beginStep_writesOnly.trans (State.raise_writesOnly _ _)).unchanged (by decide), ?_⟩
  rw [hlatched, State.faultInfo, hop, max_comm, max_def]

/-- Settles O10: the latch is looked at before anything else. -/
theorem latchedStepChangesNothing : Obligations.LatchedStepChangesNothing := fun _ _ hs => step_of_cycle (cycle_of_fault hs)

/-- Settles O11: whichever way the Step came to its fault, it is the one operation `State.raise` on the state it began with. -/
theorem faultEntryIsPrecise : Obligations.FaultEntryIsPrecise := by
  intro s t f hs h hf
  obtain ⟨ht, hinfo, -, hout⟩ := step_latches hs h hf
  refine ⟨?_, congrArg FaultInfo.pc hinfo, congrArg FaultInfo.op hinfo, hout⟩
  rw [ht, State.raise_eq s.beginStep _ hs]
  exact congrArg (fun g => { s with fault := some g, phase := .running }) hinfo.symm

/-- Settles O12: an instruction ends by its row of the fault table. -/
theorem faultsHaveExactlyTheirCauses : Obligations.FaultsHaveExactlyTheirCauses := by
  intro i s hs
  obtain ⟨t, ht, -⟩ := exec_endsIn i s
  exact ⟨t, ht, exec_fault hs ht⟩

/-- Settles O13, by the ways a Step can go. -/
theorem everyStateHasAStep : Obligations.EveryStateHasAStep := exists_step

/-- Settles O26: the phase is set before the fetch, and neither a fault nor an instruction writes it. -/
theorem stepLeavesThePhaseRunning : Obligations.StepLeavesThePhaseRunning := fun _ _ => step_phase

/-- Settles O55: a Step of a latched machine, new keys and a load leave the latch as it is, and Reset is the construction state by
definition. -/
theorem onlyResetClearsALatchedFault : Obligations.OnlyResetClearsALatchedFault := by
  refine ⟨fun s t m f hs hm h => ?_, fun s => ⟨rfl, rfl⟩⟩
  obtain ⟨-, hstep⟩ | ⟨k, -, rfl⟩ | ⟨bytes, -, rfl⟩ | ⟨rfl, -⟩ := hostMove_cases h
  · cases hstep.symm.trans (step_of_cycle (cycle_of_fault hs)).1
    exact hs
  · exact hs
  · obtain ⟨-, -, he⟩ | ⟨-, he⟩ := loadRom_cases bytes s <;> rw [he] <;> exact hs
  · exact absurd rfl hm

end

section
/-! The rules about every Step (10_state.md sections 1, 4, 6 and 7; 20_memory.md section 2): a part that changed is in the row of the
instruction at PC, and only some rows hold it. -/

namespace Sys2Proof.Machine
open Claims

theorem State.advance_setV_flagReg (s : State) {x : Nibble} (b : Byte) (h : (x == flagReg) = false) :
    (s.advance.setV x b).getV flagReg = s.getV flagReg :=
  State.getV_setV_of_ne _ b (Ne.symm (beq_eq_false_iff_ne.mp h))

/-- A block of registers that ends below VF leaves VF alone (44_index_memory.md R195). -/
theorem State.setRegs_flagReg (s : State) {x : Nibble} (bytes : List Byte) (hlen : bytes.length = x.toNat + 1)
    (h : (x == flagReg) = false) : (s.setRegs 0 bytes).getV flagReg = s.getV flagReg := by
  have hx : x.toNat ≠ 15 := fun e => beq_eq_false_iff_ne.mp h (BitVec.eq_of_toNat_eq e)
  rw [State.getV_setRegs _ _ _ (by omega), dif_neg (by rw [hlen, show flagReg.toNat = 15 from rfl]; omega)]

/-- An instruction that does not write VF as a flag or as its destination leaves it alone (10_state.md R22). -/
theorem exec_flagReg {i : Instr} {s t : State} (h : exec i s = .next t) (hi : mayWriteVF i = false) :
    t.getV flagReg = s.getV flagReg := by
  obtain ⟨k, -, rfl⟩ | ⟨hcause, hw⟩ := endsIn_of_exec h
  · rfl
  have framed : .regs ∉ writes i → t.getV flagReg = s.getV flagReg := fun hregs => (hw .regs hregs).same flagReg
  cases i with
  | op6XNN x nn | op7XNN x nn | op8XY0 x y | op8XY1 x y | op8XY2 x y | op8XY3 x y | opCXNN x nn | opFX07 x =>
    cases h; exact s.advance_setV_flagReg _ hi
  | opFX0A x =>
    cases hk : s.firstKey? with
    | some k =>
      cases h.symm.trans (exec_opFX0A_of_key hk)
      exact s.advance_setV_flagReg _ hi
    | none =>
      cases h.symm.trans (exec_opFX0A_of_no_key hk)
      rfl
  | opFX65 x =>
    have hr : outOfRange? s.i.toNat (x.toNat + 1) = none := by
      simpa [faultCause, pastMemory_eq] using hcause
    cases h.symm.trans (exec_opFX65_of_inside hr)
    exact s.advance.setRegs_flagReg _ (Memory.length_readList ..) hi
  | op8XY4 x y | op8XY5 x y | op8XY6 x y | op8XY7 x y | op8XYE x y | opDXYN x y n => cases hi
  | _ => exact framed (by simp [writes])

end Sys2Proof.Machine

open Sys2Proof Sys2Proof.Machine Sys2Proof.Claims

/-- Settles O19: the frame buffer stands in the rows of 00E0 and DXYN only. -/
theorem onlyDisplayInstructionsChangePixels : Obligations.OnlyDisplayInstructionsChangePixels := by
  intro s t h hfb
  obtain ⟨i, hi, hmem⟩ := instrAt_of_not_kept (p := .fb) h (by decide) hfb
  cases i with
  | op00E0 => exact .inl hi
  | opDXYN x y n => exact .inr ⟨x, y, n, hi⟩
  | _ => simp [writes] at hmem

/-- Settles O20: the stack and its depth stand in the rows of 2NNN and 00EE only. -/
theorem onlyCallAndReturnChangeTheStack : Obligations.OnlyCallAndReturnChangeTheStack := by
  intro s t h hchange
  have hrow : ∃ i, s.instrAt? = some i ∧ (.sp ∈ writes i ∨ .stack ∈ writes i) := by
    obtain hsp | hstack := hchange
    · obtain ⟨i, hi, hmem⟩ := instrAt_of_not_kept (p := .sp) h (by decide) hsp
      exact ⟨i, hi, .inl hmem⟩
    · obtain ⟨i, hi, hmem⟩ := instrAt_of_not_kept (p := .stack) h (by decide) hstack
      exact ⟨i, hi, .inr hmem⟩
  obtain ⟨i, hi, hmem⟩ := hrow
  cases i with
  | op00EE => exact .inl hi
  | op2NNN nnn => exact .inr ⟨nnn, hi⟩
  | _ => simp [writes] at hmem

/-- Settles O21: a Step stores one block from I up or nothing, the block has the length of its instruction, and only FX33 and FX55
have one. -/
theorem memoryChangesOnlyWhereAStoreGoes : Obligations.MemoryChangesOnlyWhereAStoreGoes := by
  intro s t a h hread
  obtain hmem | ⟨i, hi, hmem | ⟨bytes, hlen, -, hmem⟩⟩ := step_storesBlock h
  · exact absurd (by rw [hmem]) hread
  · exact absurd (by rw [hmem]) hread
  · have hin : ¬ (a < s.i.toNat ∨ s.i.toNat + bytes.length ≤ a) := fun hout =>
      hread (by rw [hmem, Memory.read_writeList_outside _ _ hout])
    cases i with
    | opFX33 x => exact .inl ⟨x, hi, by simp only [storeLength] at hlen; omega⟩
    | opFX55 x => exact .inr ⟨x, hi, by simp only [storeLength] at hlen; omega⟩
    | _ => simp only [storeLength] at hlen; omega

/-- Settles O22: a Step changes registers only in the instruction it completes, and that one leaves VF alone unless R22 lists it. -/
theorem vfChangesOnlyAsFlagOrDestination : Obligations.VFChangesOnlyAsFlagOrDestination := by
  intro s t h hvf
  obtain hw | ⟨i, u, -, hi, hu, -, rfl⟩ := step_ends h
  · exact absurd ((hw .regs (by decide)).same flagReg) hvf
  · refine ⟨i, hi, by_contra fun hnot => hvf ?_⟩
    have hkept := exec_flagReg hu (eq_false_of_ne_true hnot)
    exact hkept

/-- Settles O25: the count stands in the row of CXNN only, which draws one byte, and CXNN takes no fault. -/
theorem onlyCXNNDrawsARandomByte : Obligations.OnlyCXNNDrawsARandomByte := by
  intro s t hs h
  refine ⟨fun ⟨x, nn, hi⟩ => ?_, fun hnot => by_contra fun hdraws => ?_⟩
  · have hstep := step_of_completed hs hi rfl hs
    cases h.symm.trans hstep
    rfl
  · obtain ⟨i, hi, hmem⟩ := instrAt_of_not_kept (p := .draws) h (by decide) hdraws
    cases i with
    | opCXNN x nn => exact hnot x nn hi
    | _ => simp [writes] at hmem

end

section
/-! What a Step does not depend on (10_state.md sections 5 and 6): the key levels, unless the instruction reads them, and the sound timer. Both
are changed at once, and every operation commutes with the change. -/

namespace Sys2Proof.Machine
open Claims

/-- The state with other key levels and another sound timer. -/
def State.withInputs (s : State) (k : Vector Bool 16) (b : Byte) : State := { s with key := k, st := b }

/-! ### The shared operations commute with the change -/

section
variable (s : State) (k : Vector Bool 16) (b : Byte)

theorem State.skipIf_withInputs (c : Bool) : (s.withInputs k b).skipIf c = (s.skipIf c).withInputs k b := by
  cases c <;> rfl

theorem State.writeResultAndFlag_withInputs (o : FlagOrder) (x : Nibble) (res f : Byte) :
    (s.withInputs k b).writeResultAndFlag o x res f = (s.writeResultAndFlag o x res f).withInputs k b := by
  unfold State.writeResultAndFlag
  split
  · cases o <;> rfl
  · rfl

theorem State.setRegs_withInputs (n : Nat) (bytes : List Byte) :
    (s.withInputs k b).setRegs n bytes = (s.setRegs n bytes).withInputs k b := by
  induction bytes generalizing s n with
  | nil => rfl
  | cons c rest ih =>
    unfold State.setRegs
    split
    · exact ih (s.setV (BitVec.ofNat 4 n) c) (n + 1)
    · rfl

theorem State.storeAtI_withInputs (bytes : List Byte) : (s.withInputs k b).storeAtI bytes = (s.storeAtI bytes).withInputs k b := by
  by_cases hb : bytes = []
  · subst hb; rfl
  · rw [State.storeAtI_eq _ _ hb, State.storeAtI_eq _ _ hb, apply_ite (State.withInputs · k b)]
    rfl

theorem State.skipIfKey_withInputs (x : Nibble) (level : Bool) :
    (s.withInputs s.key b).skipIfKey x level = (s.skipIfKey x level).withInputs s.key b := by
  rw [State.skipIfKey_eq, State.skipIfKey_eq, apply_dite (State.withInputs · s.key b)]
  congr 1
  exact funext fun h => s.advance.skipIf_withInputs s.key b _

theorem State.push_withInputs (w : Word) : (s.withInputs k b).push w = (s.push w).map (·.withInputs k b) := by
  by_cases h : s.sp.val < 16 <;> simp [State.push, State.withInputs, h]

theorem State.pop_withInputs : (s.withInputs k b).pop = s.pop.map fun r => (r.1, r.2.withInputs k b) := by
  by_cases h : 0 < s.sp.val <;> simp [State.pop, State.withInputs, State.stackEntry, h]

end

/-! ### The instructions and the Step -/

/-- An instruction does the same under other key levels, unless it reads them, and under another sound timer, which only FX18 writes. -/
theorem exec_withInputs {i : Instr} {s t : State} (h : exec i s = .next t) (k : Vector Bool 16) (b : Byte)
    (hk : readsKeypad i = true → k = s.key) :
    exec i (s.withInputs k b) = .next (t.withInputs k (stAfter i (s.withInputs k b))) := by
  cases i with
  | op00EE =>
    have hcomm := s.advance.pop_withInputs k b
    cases hp : s.advance.pop with
    | none =>
      cases h.symm.trans (exec_op00EE_of_pop_none hp)
      exact exec_op00EE_of_pop_none (s := s.withInputs k b) (hcomm.trans (by rw [hp]; rfl))
    | some r =>
      cases h.symm.trans (exec_op00EE_of_pop_some hp)
      exact exec_op00EE_of_pop_some (s := s.withInputs k b) (hcomm.trans (by rw [hp]; rfl))
  | op2NNN nnn =>
    have hcomm := s.advance.push_withInputs k b s.advance.pc
    cases hp : s.advance.push s.advance.pc with
    | none =>
      cases h.symm.trans (exec_op2NNN_of_push_none hp)
      exact exec_op2NNN_of_push_none (s := s.withInputs k b) (hcomm.trans (by rw [hp]; rfl))
    | some u =>
      cases h.symm.trans (exec_op2NNN_of_push_some hp)
      exact exec_op2NNN_of_push_some (s := s.withInputs k b) (hcomm.trans (by rw [hp]; rfl))
  | opDXYN x y n =>
    cases hr : outOfRange? s.i.toNat n.toNat with
    | some a =>
      cases h.symm.trans (exec_opDXYN_of_outside hr)
      exact exec_opDXYN_of_outside hr
    | none =>
      cases h.symm.trans (exec_opDXYN_of_inside hr)
      exact exec_opDXYN_of_inside (s := s.withInputs k b) hr
  | opFX65 x =>
    cases hr : outOfRange? s.i.toNat (x.toNat + 1) with
    | some a =>
      cases h.symm.trans (exec_opFX65_of_outside hr)
      exact exec_opFX65_of_outside hr
    | none =>
      cases h.symm.trans (exec_opFX65_of_inside hr)
      exact (exec_opFX65_of_inside (s := s.withInputs k b) hr).trans
        (congrArg Host.Outcome.next (s.advance.setRegs_withInputs k b _ _))
  | opFX0A x =>
    cases hk rfl
    cases hkey : s.firstKey? with
    | some j =>
      cases h.symm.trans (exec_opFX0A_of_key hkey)
      exact exec_opFX0A_of_key (s := s.withInputs s.key b) hkey
    | none =>
      cases h.symm.trans (exec_opFX0A_of_no_key hkey)
      exact exec_opFX0A_of_no_key (s := s.withInputs s.key b) hkey
  | opEX9E x | opEXA1 x =>
    cases hk rfl
    cases h
    exact congrArg Host.Outcome.next (s.skipIfKey_withInputs b x _)
  | opFX33 x | opFX55 x =>
    cases h
    exact congrArg Host.Outcome.next (s.storeAtI_withInputs k b _)
  | op8XY4 x y | op8XY5 x y | op8XY6 x y | op8XY7 x y | op8XYE x y =>
    cases h
    exact congrArg Host.Outcome.next (s.advance.writeResultAndFlag_withInputs k b _ _ _ _)
  | op3XNN x nn | op4XNN x nn | op5XY0 x y | op9XY0 x y =>
    cases h
    exact congrArg Host.Outcome.next (s.advance.skipIf_withInputs k b _)
  -- The rest only write fields, by updates that neither branch nor recurse; FX18 is among them.
  | _ => cases h; rfl

theorem stAfter_withInputs (i : Instr) (s : State) (k : Vector Bool 16) : stAfter i (s.withInputs k s.st) = stAfter i s := by
  unfold stAfter
  split <;> rfl

/-- A Step does the same under other key levels, unless its instruction reads them, and under another sound timer. -/
theorem step_withInputs {s : State} (k : Vector Bool 16) (b : Byte)
    (hk : ∀ i, s.instrAt? = some i → readsKeypad i = true → k = s.key) :
    ∃ t c, step s = .next t ∧ step (s.withInputs k b) = .next (t.withInputs k c) ∧ (b = s.st → c = t.st) := by
  cases hs : s.fault with
  | some f =>
    exact ⟨s, b, (step_of_cycle (cycle_of_fault hs)).1, (step_of_cycle (cycle_of_fault (s := s.withInputs k b) hs)).1, id⟩
  | none =>
    cases hf : s.fetch with
    | error a =>
      have herr := (step_of_cycle (cycle_of_fetch_error hs hf)).1
      have herr' := (step_of_cycle (cycle_of_fetch_error (s := s.withInputs k b) hs hf)).1
      rw [finishStep_of_fault (State.beginStep_raise_fault _ hs)] at herr
      rw [finishStep_of_fault (State.beginStep_raise_fault (s := s.withInputs k b) _ hs)] at herr'
      exact ⟨_, b, herr, herr', id⟩
    | ok op =>
      cases hd : decode Config.decodeMode op with
      | unknown op' =>
        obtain rfl := decode_unknown hd
        exact ⟨_, tickDown b, (step_of_cycle (cycle_of_unknown hs hf hd)).1,
          (step_of_cycle (cycle_of_unknown (s := s.withInputs k b) hs hf hd)).1, congrArg tickDown⟩
      | instr i =>
        have hi : s.instrAt? = some i := State.instrAt?_eq_some.mpr ⟨op, hf, hd⟩
        obtain ⟨u, hu, -⟩ := exec_endsIn i s.beginStep
        have hu' := exec_withInputs hu k b (hk i hi)
        have hst : b = s.st → stAfter i (s.beginStep.withInputs k b) = u.st := fun hb => by
          rw [hb, (exec_timers hu).2]
          exact stAfter_withInputs i s.beginStep k
        have hstep := (step_of_cycle (cycle_of_instrAt hs hi hu)).1
        have hstep' := (step_of_cycle (cycle_of_instrAt (s := s.withInputs k b) hs hi hu')).1
        cases huf : u.fault with
        | none =>
          rw [finishStep_of_unfaulted huf] at hstep
          rw [finishStep_of_unfaulted (t := u.withInputs k _) huf] at hstep'
          exact ⟨_, _, hstep, hstep', fun hb => congrArg tickDown (hst hb)⟩
        | some f =>
          rw [finishStep_of_fault huf] at hstep
          rw [finishStep_of_fault (t := u.withInputs k _) huf] at hstep'
          exact ⟨_, _, hstep, hstep', hst⟩

/-- No Step writes the key levels (10_state.md R30). -/
theorem step_key {s t : State} (h : step s = .next t) : t.key = s.key := by
  by_contra hkey
  obtain ⟨i, -, hmem⟩ := instrAt_of_not_kept (p := .key) h (by decide) hkey
  exact (fault_phase_key_not_written i).2.2 hmem

end Sys2Proof.Machine

open Sys2Proof Sys2Proof.Machine

/-- Settles O23: no row of `writes` holds the keypad, and a Step whose instruction does not read the keys commutes with their change. -/
theorem keypadIsReadOnlyByKeyInstructions : Obligations.KeypadIsReadOnlyByKeyInstructions := by
  refine ⟨fun s t => step_key, fun s k hi => ?_⟩
  obtain ⟨t, c, hstep, hstep', hst⟩ := step_withInputs k s.st fun i hat hreads => nomatch hreads.symm.trans (hi i hat)
  refine ⟨t, hstep, ?_⟩
  rw [hst rfl] at hstep'
  exact hstep'

/-- Settles O24: a Step commutes with a change of the sound timer; the keys stay. -/
theorem soundTimerInfluencesNothing : Obligations.SoundTimerInfluencesNothing := by
  intro s b
  obtain ⟨t, c, hstep, hstep', -⟩ := step_withInputs (s := s) s.key b fun _ _ _ => rfl
  have hsame : t.withInputs s.key c = t.setSt c := by rw [← step_key hstep]; rfl
  exact ⟨t, c, hstep, hstep'.trans (congrArg Host.Outcome.next hsame)⟩

end

section
/-! Encoding and decoding (30_encoding.md sections 1 to 4): the STRICT reading is inverse to the encoder, a row of the field-value table is a
condition on a word's fields, and the FAMILY reading adds words of families 0, 5 and 9 only. -/

namespace Sys2Proof
open Laws

/-! ### The STRICT reading and the encoder -/

theorem decodeStrict_encode (i : Instr) : decodeStrict (encode i) = some i := by
  cases i with
  | op00E0 | op00EE => rfl
  | _ => simp [decodeStrict, encode, decodeFamily8, decodeFamilyE, decodeFamilyF]

theorem decodeBytes_encodeBytes (m : DecodeMode) (i : Instr) (rest : List Byte) :
    decodeBytes m (encodeBytes i ++ rest) = .ok (decode m (encode i), rest) := by
  simp only [encodeBytes, bytesOfWord, List.cons_append, List.nil_append, decodeBytes, wordOfBytes_bytesOfWord]

theorem decode_strict_eq_instr {w : Word} {i : Instr} : decode .strict w = .instr i ↔ decodeStrict w = some i := by
  unfold decode
  cases decodeStrict w <;> simp

theorem decode_strict_of_none {w : Word} (h : decodeStrict w = none) : decode .strict w = .unknown w := by
  simp [decode, h]

theorem encode_of_decodeFamily8 {x y n : Nibble} {i : Instr} (h : decodeFamily8 x y n = some i) :
    encode i = 0x8#4 ++ x ++ y ++ n := by
  unfold decodeFamily8 at h
  split_ifs at h with h0 h1 h2 h3 h4 h5 h6 h7 hE <;> cases h <;> subst n <;> rfl

theorem encode_of_decodeFamilyE {x : Nibble} {nn : Byte} {i : Instr} (h : decodeFamilyE x nn = some i) :
    encode i = 0xE#4 ++ x ++ nn := by
  unfold decodeFamilyE at h
  split_ifs at h <;> cases h <;> subst nn <;> rfl

theorem encode_of_decodeFamilyF {x : Nibble} {nn : Byte} {i : Instr} (h : decodeFamilyF x nn = some i) :
    encode i = 0xF#4 ++ x ++ nn := by
  unfold decodeFamilyF at h
  split_ifs at h <;> cases h <;> subst nn <;> rfl

/-- A word the STRICT reading recognises is the encoding of its instruction. -/
theorem encode_of_decodeStrict {w : Word} {i : Instr} (h : decodeStrict w = some i) : encode i = w := by
  have nnn : ∀ {f : Nibble}, opFamily w = f → f ++ fieldNNN w = w := fun hf => hf ▸ word_nnn w
  have xnn : ∀ {f : Nibble}, opFamily w = f → f ++ fieldX w ++ fieldNN w = w := fun hf => hf ▸ word_xnn w
  have xyn : ∀ {f : Nibble}, opFamily w = f → f ++ fieldX w ++ fieldY w ++ fieldN w = w := fun hf => hf ▸ word_xyn w
  simp only [decodeStrict] at h
  obtain ⟨hf, h⟩ | ⟨h0, h⟩ := ite_eq_iff.mp h
  · obtain ⟨hw, h⟩ | ⟨-, h⟩ := ite_eq_iff.mp h
    · cases h; exact hw.symm
    obtain ⟨hw, h⟩ | ⟨-, h⟩ := ite_eq_iff.mp h
    · cases h; exact hw.symm
    · cases h
  obtain ⟨hf, h⟩ | ⟨h1, h⟩ := ite_eq_iff.mp h
  · cases h; exact nnn hf
  obtain ⟨hf, h⟩ | ⟨h2, h⟩ := ite_eq_iff.mp h
  · cases h; exact nnn hf
  obtain ⟨hf, h⟩ | ⟨h3, h⟩ := ite_eq_iff.mp h
  · cases h; exact xnn hf
  obtain ⟨hf, h⟩ | ⟨h4, h⟩ := ite_eq_iff.mp h
  · cases h; exact xnn hf
  obtain ⟨hf, h⟩ | ⟨h5, h⟩ := ite_eq_iff.mp h
  · obtain ⟨hn, h⟩ | ⟨-, h⟩ := ite_eq_iff.mp h
    · cases h; exact (congrArg (0x5#4 ++ fieldX w ++ fieldY w ++ ·) hn.symm).trans (xyn hf)
    · cases h
  obtain ⟨hf, h⟩ | ⟨h6, h⟩ := ite_eq_iff.mp h
  · cases h; exact xnn hf
  obtain ⟨hf, h⟩ | ⟨h7, h⟩ := ite_eq_iff.mp h
  · cases h; exact xnn hf
  obtain ⟨hf, h⟩ | ⟨h8, h⟩ := ite_eq_iff.mp h
  · exact (encode_of_decodeFamily8 h).trans (xyn hf)
  obtain ⟨hf, h⟩ | ⟨h9, h⟩ := ite_eq_iff.mp h
  · obtain ⟨hn, h⟩ | ⟨-, h⟩ := ite_eq_iff.mp h
    · cases h; exact (congrArg (0x9#4 ++ fieldX w ++ fieldY w ++ ·) hn.symm).trans (xyn hf)
    · cases h
  obtain ⟨hf, h⟩ | ⟨hA, h⟩ := ite_eq_iff.mp h
  · cases h; exact nnn hf
  obtain ⟨hf, h⟩ | ⟨hB, h⟩ := ite_eq_iff.mp h
  · cases h; exact nnn hf
  obtain ⟨hf, h⟩ | ⟨hC, h⟩ := ite_eq_iff.mp h
  · cases h; exact xnn hf
  obtain ⟨hf, h⟩ | ⟨hD, h⟩ := ite_eq_iff.mp h
  · cases h; exact xyn hf
  obtain ⟨hf, h⟩ | ⟨hE, h⟩ := ite_eq_iff.mp h
  · exact (encode_of_decodeFamilyE h).trans (xnn hf)
  have hf : opFamily w = 0xF := by bv_omega
  exact (encode_of_decodeFamilyF h).trans (xnn hf)

/-! ### The rows of the field-value table -/

theorem rowOf_matchesWord_encode (i : Instr) : (rowOf i).matchesWord (encode i) = true :=
  Instr.rec (motive := RowMatch.Statement)
    RowMatch.op00E0 RowMatch.op00EE RowMatch.op1NNN RowMatch.op2NNN RowMatch.op3XNN RowMatch.op4XNN RowMatch.op5XY0
    RowMatch.op6XNN RowMatch.op7XNN RowMatch.op8XY0 RowMatch.op8XY1 RowMatch.op8XY2 RowMatch.op8XY3 RowMatch.op8XY4
    RowMatch.op8XY5 RowMatch.op8XY6 RowMatch.op8XY7 RowMatch.op8XYE RowMatch.op9XY0 RowMatch.opANNN RowMatch.opBNNN
    RowMatch.opCXNN RowMatch.opDXYN RowMatch.opEX9E RowMatch.opEXA1 RowMatch.opFX07 RowMatch.opFX0A RowMatch.opFX15
    RowMatch.opFX18 RowMatch.opFX1E RowMatch.opFX29 RowMatch.opFX33 RowMatch.opFX55 RowMatch.opFX65 i

/-- What the mask of a row of format NNN, XNN or XYN keeps of a word: the family. -/
theorem opFamily_of_mask {w r : Word} (h : w &&& 0xF000 = r) : opFamily w = opFamily r := by
  have hm : w &&& 0xF000 = opFamily w ++ 0x000#12 := by
    conv_lhs => rw [← word_nnn w]
    exact mask_nnn ..
  rw [← h, hm, opFamily_nnn]

/-- What the mask of a row of format XY0 to XYE keeps of a word: the family and N. -/
theorem opFamily_fieldN_of_mask {w r : Word} (h : w &&& 0xF00F = r) : opFamily w = opFamily r ∧ fieldN w = fieldN r := by
  have hm : w &&& 0xF00F = opFamily w ++ 0x0#4 ++ 0x0#4 ++ fieldN w := by
    conv_lhs => rw [← word_xyn w]
    exact mask_xys ..
  rw [← h, hm, opFamily_xyn, fieldN_xyn]
  exact ⟨rfl, rfl⟩

/-- What the mask of a row of families E and F keeps of a word: the family and NN. -/
theorem opFamily_fieldNN_of_mask {w r : Word} (h : w &&& 0xF0FF = r) : opFamily w = opFamily r ∧ fieldNN w = fieldNN r := by
  have hm : w &&& 0xF0FF = opFamily w ++ 0x0#4 ++ fieldNN w := by
    conv_lhs => rw [← word_xnn w]
    exact mask_xss ..
  rw [← h, hm, opFamily_xnn, fieldNN_xnn]
  exact ⟨rfl, rfl⟩

/-- A word that matches a row decodes to an instruction of that row. -/
theorem rowOf_decodeStrict_of_matchesWord {j : Instr} {w : Word} (h : (rowOf j).matchesWord w = true) :
    (decodeStrict w).map rowOf = some (rowOf j) := by
  have h := eq_of_beq h
  cases j with
  | op00E0 | op00EE =>
    obtain rfl := BitVec.and_allOnes.symm.trans h
    rfl
  | op5XY0 x y | op9XY0 x y =>
    obtain ⟨hf, hn⟩ := opFamily_fieldN_of_mask h
    simp +decide [decodeStrict, hf, hn, rowOf]
  | op8XY0 x y | op8XY1 x y | op8XY2 x y | op8XY3 x y | op8XY4 x y | op8XY5 x y | op8XY6 x y | op8XY7 x y | op8XYE x y =>
    obtain ⟨hf, hn⟩ := opFamily_fieldN_of_mask h
    simp +decide [decodeStrict, decodeFamily8, hf, hn, rowOf]
  | opEX9E x | opEXA1 x =>
    obtain ⟨hf, hnn⟩ := opFamily_fieldNN_of_mask h
    simp +decide [decodeStrict, decodeFamilyE, hf, hnn, rowOf]
  | opFX07 x | opFX0A x | opFX15 x | opFX18 x | opFX1E x | opFX29 x | opFX33 x | opFX55 x | opFX65 x =>
    obtain ⟨hf, hnn⟩ := opFamily_fieldNN_of_mask h
    simp +decide [decodeStrict, decodeFamilyF, hf, hnn, rowOf]
  | _ =>
    have hf := opFamily_of_mask h
    simp +decide [decodeStrict, hf, rowOf]

theorem mem_opcodeRows_iff {r : OpcodeRow} : r ∈ opcodeRows ↔ ∃ i, rowOf i = r := by
  refine ⟨fun h => ?_, ?_⟩
  · obtain ⟨i, -, hi⟩ := List.mem_map.mp h
    exact ⟨i, hi⟩
  · rintro ⟨i, rfl⟩
    cases i <;> simp [opcodeRows, rowSamples, rowOf]

theorem rowOf_matchesWord_of_decodeStrict {w : Word} {i : Instr} (h : decodeStrict w = some i) :
    (rowOf i).matchesWord w = true := by
  have hmatch := rowOf_matchesWord_encode i
  rwa [encode_of_decodeStrict h] at hmatch

/-- A word that matches a row of the table: the row is that of the instruction the STRICT reading gives. -/
theorem decodeStrict_of_row {w : Word} {r : OpcodeRow} (hr : r ∈ opcodeRows) (h : r.matchesWord w = true) :
    ∃ i, decodeStrict w = some i ∧ rowOf i = r := by
  obtain ⟨j, rfl⟩ := mem_opcodeRows_iff.mp hr
  exact Option.map_eq_some_iff.mp (rowOf_decodeStrict_of_matchesWord h)

/-! ### The FAMILY reading -/

/-- A word outside the table is the FAMILY reading's own (R79). -/
theorem decode_family_of_none {w : Word} (h : decodeStrict w = none) :
    decode .family w = ((decodeFamilyExtra w).map Decoded.instr).getD (.unknown w) := by
  unfold decode
  rw [h]
  cases decodeFamilyExtra w <;> rfl

end Sys2Proof

open Sys2Proof

/-- Settles O2: the STRICT reading of an encoded instruction is the instruction, and the FAMILY reading asks STRICT first. -/
theorem decodeOfEncodeIsTheInstruction : Obligations.DecodeOfEncodeIsTheInstruction := by
  intro m i rest
  have hd := decode_of_strict m (decodeStrict_encode i)
  exact ⟨hd, (decodeBytes_encodeBytes m i rest).trans (by rw [hd])⟩

/-- Settles O3, by the branches of the STRICT reading: each tests the bits its instruction does not hold. -/
theorem encodeOfStrictDecodeIsTheWord : Obligations.EncodeOfStrictDecodeIsTheWord :=
  fun _ _ h => encode_of_decodeStrict (decode_strict_eq_instr.mp h)

/-- Settles O4: a recognised word matches the row of its instruction, and a word that matches a row decodes to an instruction of it. -/
theorem strictDecodeRecognisesExactlyTheRows : Obligations.StrictDecodeRecognisesExactlyTheRows := by
  intro w
  simp only [decode_strict_eq_instr]
  have hown : ∀ i, decodeStrict w = some i → (rowOf i).matchesWord w = true := fun _ => rowOf_matchesWord_of_decodeStrict
  refine ⟨⟨fun ⟨i, hi⟩ => ⟨rowOf i, mem_opcodeRows_iff.mpr ⟨i, rfl⟩, hown i hi⟩, fun ⟨r, hr, h⟩ => ?_⟩, hown, fun hno => ?_⟩
  · obtain ⟨i, hi, -⟩ := decodeStrict_of_row hr h
    exact ⟨i, hi⟩
  · cases hd : decodeStrict w with
    | none => exact decode_strict_of_none hd
    | some i => exact nomatch (hown i hd).symm.trans (hno _ (mem_opcodeRows_iff.mpr ⟨i, rfl⟩))

/-- Settles O6: both rows are the row of the instruction the STRICT reading gives. -/
theorem noTwoRowsMatchTheSameWord : Obligations.NoTwoRowsMatchTheSameWord := by
  intro w r r' hr hr' h h'
  obtain ⟨i, hi, rfl⟩ := decodeStrict_of_row hr h
  obtain ⟨i', hi', rfl⟩ := decodeStrict_of_row hr' h'
  cases hi.symm.trans hi'
  rfl

/-- Settles O5: in the three families STRICT recognises the prose's words with more bits tested and decodes them alike, and the FAMILY
reading adds the rest; in the others it adds none. -/
theorem familyDecodeReadsTheProseFields : Obligations.FamilyDecodeReadsTheProseFields := by
  intro w
  refine ⟨fun h => ?_, fun h => ?_, fun h => ?_, fun h0 h5 h9 => ?_⟩
  · by_cases hE0 : w = 0x00E0
    · subst hE0; rfl
    by_cases hEE : w = 0x00EE
    · subst hEE; rfl
    have hstrict : decodeStrict w = none := (if_pos h).trans ((if_neg hE0).trans (if_neg hEE))
    have hextra : decodeFamilyExtra w =
        if fieldNN w = 0xE0 then some .op00E0 else if fieldNN w = 0xEE then some .op00EE else none := if_pos h
    rw [decode_family_of_none hstrict, hextra]
    split
    · rfl
    · split <;> rfl
  · simp only [decode, decodeStrict, decodeFamilyExtra, h]
    by_cases hn : fieldN w = 0x0 <;> simp only [hn] <;> rfl
  · simp only [decode, decodeStrict, decodeFamilyExtra, h]
    by_cases hn : fieldN w = 0x0 <;> simp only [hn] <;> rfl
  · cases hd : decodeStrict w with
    | some i => rw [decode_of_strict _ hd, decode_of_strict _ hd]
    | none =>
      have hextra : decodeFamilyExtra w = none := (if_neg h0).trans ((if_neg h5).trans (if_neg h9))
      rw [decode_family_of_none hd, decode_strict_of_none hd, hextra]
      rfl

/-- Settles O1, under each value of `P_DECODE`. -/
theorem sampleWordsDecode : Obligations.SampleWordsDecode := by
  intro m
  cases m <;> decide

end

section
/-! Faults and frames of one instruction, from its rows of the fault table and of `writes`: the form in which the rules of single
instructions use them. -/

namespace Sys2Proof.Machine
open Claims

/-- An instruction whose condition holds latches its fault and changes nothing else (60_exceptions.md R231, R236). -/
theorem latchesFault_of_faultCause {i : Instr} {s : State} {k : FaultKind} (hs : s.fault = none) (hk : faultCause i s = some k) :
    ∃ t, exec i s = .next t ∧ LatchesFault s t k := by
  obtain ⟨t, ht, ⟨k', hk', rfl⟩ | ⟨hnone, -⟩⟩ := exec_endsIn i s
  · cases hk.symm.trans hk'
    exact ⟨_, ht, by rw [State.raise_eq s k hs], (s.raise_writesOnly k).unchanged (by decide)⟩
  · cases hk.symm.trans hnone

/-- An instruction whose condition does not hold completes within its row. -/
theorem writesOnly_of_no_faultCause {i : Instr} {s t : State} (h : exec i s = .next t) (hk : faultCause i s = none) :
    WritesOnly (writes i) s t := by
  obtain ⟨k, hk', -⟩ | ⟨-, hw⟩ := endsIn_of_exec h
  · cases hk.symm.trans hk'
  · exact hw

end Sys2Proof.Machine
end

section
/-! Control flow (42_control_flow.md): the jumps, the call and the return, with the call stack's limits (10_state.md section 4), and the
register skips. -/

namespace Sys2Proof.Machine

theorem toNat_widen (b : Byte) : (widen b).toNat = b.toNat := BitVec.toNat_setWidth_of_le (by decide)

/-- BNNN's sum is at most 0x0FFF + 0xFF, so it never wraps (42_control_flow.md R147). -/
theorem toNat_jumpTarget (nnn : Addr12) (b : Byte) : (jumpTarget nnn b).toNat = nnn.toNat + b.toNat := by
  rw [jumpTarget, BitVec.toNat_add, toNat_address, toNat_widen]
  omega

theorem exec_op1NNN (nnn : Addr12) (s : State) : exec (.op1NNN nnn) s = .next (s.setPc (address nnn)) := rfl

theorem exec_opBNNN (nnn : Addr12) (s : State) : exec (.opBNNN nnn) s = .next (s.setPc (jumpTarget nnn (s.getV 0x0))) := rfl

/-- A call with fewer than 16 entries held (42_control_flow.md R142). -/
theorem exec_op2NNN_of_room {s : State} (nnn : Addr12) (h : s.sp.val < 16) :
    ∃ t, exec (.op2NNN nnn) s = .next t ∧ t.pc = address nnn ∧ t.sp.val = s.sp.val + 1 ∧ t.stackEntry s.sp.val = s.pc + 2 ∧
      (∀ k, k ≠ s.sp.val → t.stackEntry k = s.stackEntry k) ∧ WritesOnly [.pc, .stack, .sp] s t := by
  cases hp : s.advance.push s.advance.pc with
  | none => exact absurd (State.push_eq_none.mp hp) (Nat.ne_of_lt h)
  | some t =>
    have hexec := exec_op2NNN_of_push_some (nnn := nnn) hp
    have hframe := writesOnly_of_no_faultCause hexec (if_neg (Nat.ne_of_lt h))
    obtain ⟨stk, d, rfl, hd, htop, hrest⟩ := State.push_eq_some hp
    exact ⟨_, hexec, rfl, hd, htop, hrest, hframe⟩

/-- A return with an entry held (42_control_flow.md R140). -/
theorem exec_op00EE_of_held {s : State} (h : 0 < s.sp.val) :
    ∃ t, exec .op00EE s = .next t ∧ t.pc = s.stackEntry (s.sp.val - 1) ∧ t.sp.val = s.sp.val - 1 ∧ WritesOnly [.pc, .sp] s t := by
  cases hp : s.advance.pop with
  | none => exact absurd (State.pop_eq_none.mp hp) (Nat.ne_of_gt h)
  | some r =>
    have hexec := exec_op00EE_of_pop_some hp
    have hframe := writesOnly_of_no_faultCause hexec (if_neg (Nat.ne_of_gt h))
    obtain ⟨w, t⟩ := r
    obtain ⟨d, rfl, hd, hw⟩ := State.pop_eq_some hp
    have hd' : d.val = s.sp.val - 1 := Nat.eq_sub_of_add_eq hd
    exact ⟨_, hexec, hd' ▸ hw, hd', hframe⟩

theorem exec_op5XY0 (x y : Nibble) (s : State) : exec (.op5XY0 x y) s = .next (s.advance.skipIf (s.getV x == s.getV y)) := rfl

theorem exec_op9XY0 (x y : Nibble) (s : State) : exec (.op9XY0 x y) s = .next (s.advance.skipIf (s.getV x != s.getV y)) := rfl

end Sys2Proof.Machine

open Sys2Proof Sys2Proof.Machine

/-- Settles O30: both are one write of PC, with the widened address or its sum with V0. -/
theorem jumpsSetOnlyPc : Obligations.JumpsSetOnlyPc := by
  intro s nnn
  exact ⟨rfl, rfl, ⟨_, exec_op1NNN nnn s, toNat_address nnn, (s.setPc_writesOnly _).unchanged (by decide)⟩,
    ⟨_, exec_opBNNN nnn s, toNat_jumpTarget nnn _, (s.setPc_writesOnly _).unchanged (by decide)⟩⟩

/-- Settles O31: the push succeeds below depth 16. -/
theorem callPushesTheReturnAddress : Obligations.CallPushesTheReturnAddress := by
  intro s nnn h
  obtain ⟨t, ht, hpc, hsp, htop, hrest, hframe⟩ := exec_op2NNN_of_room nnn h
  exact ⟨t, ht, by rw [hpc, toNat_address], hsp, htop, hrest, hframe.unchanged (by decide)⟩

/-- Settles O32: the pop succeeds above depth 0, and writes the depth only. -/
theorem returnPopsTheCallStack : Obligations.ReturnPopsTheCallStack := by
  intro s h
  obtain ⟨t, ht, hpc, hsp, hframe⟩ := exec_op00EE_of_held h
  exact ⟨t, ht, hpc, hsp, hframe.unchanged (by decide)⟩

/-- Settles O33: the two stack rows of the fault table. -/
theorem stackFaultsLatch : Obligations.StackFaultsLatch :=
  fun _ _ hs => ⟨fun h => latchesFault_of_faultCause hs (if_pos h), fun h => latchesFault_of_faultCause hs (if_pos h)⟩

/-- Settles O34: the return reads the entry the call wrote, at the depth the call left. -/
theorem callThenReturnResumesAfterTheCall : Obligations.CallThenReturnResumesAfterTheCall := by
  intro s nnn h
  obtain ⟨t, ht, -, hsp, htop, -, hcall⟩ := exec_op2NNN_of_room nnn h
  obtain ⟨u, hu, hpc, hsp', hreturn⟩ := exec_op00EE_of_held (s := t) (by omega)
  have hdepth : u.sp = s.sp := Fin.ext (by omega)
  refine ⟨t, u, ht, hu, by rw [hpc, hsp, Nat.add_sub_cancel, htop], hdepth, fun p hp => ?_⟩
  by_cases hpsp : p = .sp
  · subst hpsp; exact hdepth
  · exact (hcall.trans hreturn).unchanged (qs := [.pc, .stack, .sp]) (by decide) p (by simpa [hpsp] using hp)

/-- Settles O36: each is an advance and a skip, on VX = VY for 5XY0 and on VX ≠ VY for 9XY0. -/
theorem registerSkipsPassOneWord : Obligations.RegisterSkipsPassOneWord := by
  intro s x y
  refine ⟨⟨_, exec_op5XY0 x y s, ?_, State.advance_skipIf_unchanged s _⟩, ⟨_, exec_op9XY0 x y s, ?_, State.advance_skipIf_unchanged s _⟩⟩
  · simp only [State.advance_skipIf_pc, beq_iff_eq]
  · simp only [State.advance_skipIf_pc, bne_iff_ne, ne_eq, ite_not]

end

section
/-! The ALU (43_alu.md): the logic instructions and CXNN write VX; the arithmetic and the shifts write a result and a flag, in the order
`P_FLAG_ORDER` gives where X = F. -/

namespace Sys2Proof.Machine
open Claims

theorem toNat_flagByte (c : Bool) : (flagByte c).toNat = if c then 1 else 0 := by
  cases c <;> rfl

/-- The shared write of a result and a flag, in numbers (43_alu.md R160, R173). -/
theorem State.writeResultAndFlag_flagResult (s : State) (x : Nibble) (res f : Byte) :
    FlagResult s (s.advance.writeResultAndFlag Config.flagOrder x res f) x res.toNat f.toNat := by
  have hframe := s.advance_writesOnly.trans (s.advance.writeResultAndFlag_writesOnly Config.flagOrder x res f)
  refine ⟨fun hx => ?_, fun hx ho => ?_, fun hx ho => ?_, fun r hr => ?_, ?_, hframe.unchanged (by decide)⟩
  · simp [State.getV_writeResultAndFlag, hx]
  · simp [State.getV_writeResultAndFlag, hx, ho]
  · simp [State.getV_writeResultAndFlag, hx, ho]
  · obtain ⟨hrx, hrf⟩ : r ≠ x ∧ r ≠ flagReg := by simpa using hr
    simp [State.getV_writeResultAndFlag, hrx, hrf]
  · obtain ⟨w, hw⟩ := State.writeResultAndFlag_frame s.advance Config.flagOrder x res f
    rw [hw]
    rfl

section
variable (x y : Nibble) (s : State)

theorem exec_op8XY1 : exec (.op8XY1 x y) s = .next (s.advance.setV x (s.getV x ||| s.getV y)) := rfl
theorem exec_op8XY2 : exec (.op8XY2 x y) s = .next (s.advance.setV x (s.getV x &&& s.getV y)) := rfl
theorem exec_op8XY3 : exec (.op8XY3 x y) s = .next (s.advance.setV x (s.getV x ^^^ s.getV y)) := rfl
theorem exec_op8XY4 : exec (.op8XY4 x y) s = .next (s.advance.writeResultAndFlag Config.flagOrder x (s.getV x + s.getV y)
    (carryFlag (s.getV x) (s.getV y))) := rfl
theorem exec_op8XY5 : exec (.op8XY5 x y) s = .next (s.advance.writeResultAndFlag Config.flagOrder x (s.getV x - s.getV y)
    (notBorrowFlag (s.getV x) (s.getV y))) := rfl
theorem exec_op8XY6 : exec (.op8XY6 x y) s = .next (s.advance.writeResultAndFlag Config.flagOrder x (s.getV x >>> 1)
    (shiftRightFlag (s.getV x))) := rfl
theorem exec_op8XY7 : exec (.op8XY7 x y) s = .next (s.advance.writeResultAndFlag Config.flagOrder x (s.getV y - s.getV x)
    (notBorrowFlag (s.getV y) (s.getV x))) := rfl
theorem exec_op8XYE : exec (.op8XYE x y) s = .next (s.advance.writeResultAndFlag Config.flagOrder x (s.getV x <<< 1)
    (shiftLeftFlag (s.getV x))) := rfl
theorem exec_opCXNN (nn : Byte) : exec (.opCXNN x nn) s =
    .next (s.advance.drawRand.2.setV x (Config.randByte s.draws &&& nn)) := rfl

end

/-! ### Results and flags in numbers -/

theorem toNat_carryFlag (a b : Byte) : (carryFlag a b).toNat = if 255 < a.toNat + b.toNat then 1 else 0 := by
  simp [carryFlag, toNat_flagByte]

theorem toNat_notBorrowFlag (a b : Byte) : (notBorrowFlag a b).toNat = if a.toNat < b.toNat then 0 else 1 := by
  simp only [notBorrowFlag, toNat_flagByte, gt_iff_lt, Bool.not_eq_true', decide_eq_false_iff_not, ite_not]

theorem toNat_sub_byte (a b : Byte) : (a - b).toNat = (a.toNat + 256 - b.toNat) % 256 := by
  rw [BitVec.toNat_sub]
  omega

theorem toNat_shiftRight_byte (a : Byte) : (a >>> 1).toNat = a.toNat / 2 := by
  rw [BitVec.toNat_ushiftRight, Nat.shiftRight_eq_div_pow]

theorem toNat_shiftLeft_byte (a : Byte) : (a <<< 1).toNat = a.toNat * 2 % 256 := by
  rw [BitVec.toNat_shiftLeft, Nat.shiftLeft_eq]

theorem toNat_shiftRightFlag (a : Byte) : (shiftRightFlag a).toNat = a.toNat % 2 := by
  rw [shiftRightFlag, toNat_flagByte, BitVec.getLsbD, Nat.testBit_zero]
  simp only [decide_eq_true_eq]
  split <;> omega

theorem toNat_shiftLeftFlag (a : Byte) : (shiftLeftFlag a).toNat = a.toNat / 128 := by
  have hlt := a.isLt
  rw [shiftLeftFlag, toNat_flagByte, BitVec.getLsbD, Nat.testBit_eq_decide_div_mod_eq]
  simp only [decide_eq_true_eq]
  split <;> omega

end Sys2Proof.Machine

open Sys2Proof Sys2Proof.Machine

/-- Settles O38: each is an advance and a write of VX, and the bytes' operations are the numbers'. -/
theorem logicWritesOnlyVX : Obligations.LogicWritesOnlyVX := by
  intro s x y
  refine ⟨⟨_, exec_op8XY1 x y s, ?_⟩, ⟨_, exec_op8XY2 x y s, ?_⟩, ⟨_, exec_op8XY3 x y s, ?_⟩⟩
  · rw [← BitVec.toNat_or]; exact s.advance_setV_writesRegister x _
  · rw [← BitVec.toNat_and]; exact s.advance_setV_writesRegister x _
  · rw [← BitVec.toNat_xor]; exact s.advance_setV_writesRegister x _

/-- Settles O39: the shared write, of the byte sum and its carry. -/
theorem addWritesSumAndCarry : Obligations.AddWritesSumAndCarry := by
  intro s x y
  refine ⟨rfl, _, exec_op8XY4 x y s, ?_⟩
  rw [← toNat_carryFlag, ← BitVec.toNat_add]
  exact s.writeResultAndFlag_flagResult x _ _

/-- Settles O40: the shared write, of the byte difference and its not-borrow, with the operands exchanged for 8XY7. -/
theorem subtractsWriteDifferenceAndNotBorrow : Obligations.SubtractsWriteDifferenceAndNotBorrow := by
  intro s x y
  simp only [← toNat_notBorrowFlag, ← toNat_sub_byte]
  exact ⟨rfl, rfl, ⟨_, exec_op8XY5 x y s, s.writeResultAndFlag_flagResult x _ _⟩,
    ⟨_, exec_op8XY7 x y s, s.writeResultAndFlag_flagResult x _ _⟩⟩

/-- Settles O41: the shared write, of the shifted byte and the bit shifted out, whatever Y is. -/
theorem shiftsWriteResultAndTheBitShiftedOut : Obligations.ShiftsWriteResultAndTheBitShiftedOut := by
  intro s x y
  simp only [← toNat_shiftRight_byte, ← toNat_shiftLeft_byte, ← toNat_shiftRightFlag, ← toNat_shiftLeftFlag]
  exact ⟨rfl, rfl, ⟨_, exec_op8XY6 x y s, s.writeResultAndFlag_flagResult x _ _⟩,
    ⟨_, exec_op8XYE x y s, s.writeResultAndFlag_flagResult x _ _⟩⟩

/-- Settles O42: the advance, one draw, and a write of VX. -/
theorem randomByteIsMaskedIntoVX : Obligations.RandomByteIsMaskedIntoVX := by
  intro s x nn
  have hframe := writesOnly_of_no_faultCause (exec_opCXNN x s nn) rfl
  refine ⟨_, exec_opCXNN x s nn, ?_, rfl, fun r hr => ?_, rfl, hframe.unchanged (by simp [writes])⟩
  · rw [State.getV_setV_self, BitVec.toNat_and]
  · exact State.getV_setV_of_ne _ _ fun h => hr (List.mem_singleton.mpr h)

end

section
/-! The display (41_display.md): 00E0, and the draw of DXYN as one exclusive or with the sprite. -/

namespace Sys2Proof.Machine
open Claims

/-- The rows DXYN reads from Memory, as the sprite of the claims (41_display.md R121, R125). -/
theorem rowsBit_readList (s : State) (x y n : Nibble) (py px : Nat) :
    rowsBit ((s.getV x).toNat % 64) ((s.getV y).toNat % 32) (s.mem.readList s.i.toNat n.toNat) py px = spriteBit s x y n py px := by
  unfold rowsBit spriteBit
  by_cases hrow : py - (s.getV y).toNat % 32 < n.toNat
  · rw [List.getElem?_eq_getElem (by simpa using hrow), Option.getD_some, Memory.getElem_readList]
    congr 2
    exact propext (by omega)
  · rw [List.getElem?_eq_none (by simpa using hrow), decide_eq_false (p := _ ∧ py < _ ∧ _) (by omega)]
    simp

theorem pixel_spriteDraw (s : State) (x y n : Nibble) (py px : Nat) :
    pixel (s.spriteDraw x y n).fb py px = (pixel s.fb py px ^^ (onScreen py px && spriteBit s x y n py px)) := by
  rw [State.spriteDraw, pixel_drawRows, rowsBit_readList]

theorem pixel_spriteDraw_onScreen (s : State) (x y n : Nibble) {py px : Nat} (hy : py < 32) (hx : px < 64) :
    pixel (s.spriteDraw x y n).fb py px = (pixel s.fb py px ^^ spriteBit s x y n py px) := by
  rw [pixel_spriteDraw, onScreen, decide_eq_true ⟨hy, hx⟩, Bool.true_and]

/-- Drawing collides exactly where a set bit of the sprite meets a pixel that is on, which lies on the screen (R123, R124). -/
theorem collision_spriteDraw (s : State) (x y n : Nibble) : (s.spriteDraw x y n).collision = true ↔
    ∃ py px, py < 32 ∧ px < 64 ∧ spriteBit s x y n py px = true ∧ pixel s.fb py px = true := by
  simp only [State.spriteDraw, collision_drawRows, rowsBit_readList, Bool.false_eq_true, false_or]
  refine exists_congr fun py => exists_congr fun px => ⟨fun ⟨hbit, hpix⟩ => ?_, fun ⟨_, _, h⟩ => h⟩
  have hon : ¬ onScreen py px = false := fun h => by simp [pixel_offScreen h] at hpix
  simp only [onScreen, decide_eq_false_iff_not, not_not] at hon
  exact ⟨hon.1, hon.2, hbit, hpix⟩

theorem flagByte_eq_one {c : Bool} : flagByte c = 1 ↔ c = true := by
  cases c <;> decide

/-- The state DXYN leaves when its rows lie inside Memory (R121). -/
def State.drawn (s : State) (x y n : Nibble) : State :=
  (s.advance.setFb (s.spriteDraw x y n).fb).setV flagReg (flagByte (s.spriteDraw x y n).collision)

theorem exec_opDXYN {s : State} (x y : Nibble) {n : Nibble} (h : n = 0 ∨ s.i.toNat + n.toNat ≤ 0x1000) :
    exec (.opDXYN x y n) s = .next (s.drawn x y n) :=
  exec_opDXYN_of_inside (outOfRange?_eq_none.mpr (h.imp_left fun hn => by rw [hn]; rfl))

theorem State.drawn_flagReg (s : State) (x y n : Nibble) : (s.drawn x y n).getV flagReg = flagByte (s.spriteDraw x y n).collision :=
  State.getV_setV_self ..

/-- A draw moves nothing its sprite is read from, unless VX or VY is VF. -/
theorem spriteBit_drawn {s : State} {x y : Nibble} (n : Nibble) (hx : x ≠ flagReg) (hy : y ≠ flagReg) :
    spriteBit (s.drawn x y n) x y n = spriteBit s x y n := by
  have hvx : (s.drawn x y n).getV x = s.getV x := State.getV_setV_of_ne _ _ hx
  have hvy : (s.drawn x y n).getV y = s.getV y := State.getV_setV_of_ne _ _ hy
  funext py px
  simp only [spriteBit, hvx, hvy]
  rfl

/-- The second draw of a sprite takes back every pixel of the first (95_test_vectors.md S5). -/
theorem fb_drawn_drawn {s : State} {x y : Nibble} (n : Nibble) (hx : x ≠ flagReg) (hy : y ≠ flagReg) :
    ((s.drawn x y n).drawn x y n).fb = s.fb := by
  refine frameBuffer_ext fun py px _ => ?_
  calc pixel ((s.drawn x y n).spriteDraw x y n).fb py px
      = (pixel (s.spriteDraw x y n).fb py px ^^ (onScreen py px && spriteBit s x y n py px)) := by
        rw [pixel_spriteDraw, spriteBit_drawn n hx hy]; rfl
    _ = pixel s.fb py px := by rw [pixel_spriteDraw, Bool.xor_assoc, Bool.xor_self, Bool.xor_false]

end Sys2Proof.Machine

open Sys2Proof Sys2Proof.Machine Sys2Proof.Claims

/-- Settles O27: the advance, and then the cleared screen for the frame buffer. -/
theorem clearScreenTurnsEveryPixelOff : Obligations.ClearScreenTurnsEveryPixelOff := by
  intro s
  have hexec : exec .op00E0 s = .next (s.advance.setFb clearedScreen) := rfl
  exact ⟨_, hexec, fun y x _ _ => pixel_clearedScreen y x, rfl, (writesOnly_of_no_faultCause hexec rfl).unchanged (by decide)⟩

/-- Settles O28: the draw is an exclusive or, pixel by pixel, and VF is written last, with the collision. -/
theorem spriteDrawXorsThePixels : Obligations.SpriteDrawXorsThePixels := by
  intro s x y n hn
  refine ⟨_, exec_opDXYN x y hn, fun py px hy hx => pixel_spriteDraw_onScreen s x y n hy hx, fun hhit => ?_, fun hmiss => ?_,
    fun r hr => State.getV_setV_of_ne _ _ fun h => hr (List.mem_singleton.mpr h), rfl, ?_⟩
  · rw [State.drawn_flagReg, (collision_spriteDraw s x y n).mpr hhit]; rfl
  · have hnone : (s.spriteDraw x y n).collision = false := by
      refine eq_false_of_ne_true fun hc => ?_
      obtain ⟨py, px, hy, hx, hbit, hpix⟩ := (collision_spriteDraw s x y n).mp hc
      cases hpix.symm.trans (hmiss py px hy hx hbit)
    rw [State.drawn_flagReg, hnone]; rfl
  · have hframe := s.advance_writesOnly.trans ((s.advance.setFb_writesOnly (s.spriteDraw x y n).fb).trans
      (State.setV_writesOnly _ flagReg (flagByte (s.spriteDraw x y n).collision)))
    exact hframe.unchanged (by decide)

/-- Settles O29: the second sprite is the first, so its exclusive or undoes the first's; it meets an on pixel exactly where the first
turned one on. -/
theorem drawingTwiceRestoresTheScreen : Obligations.DrawingTwiceRestoresTheScreen := by
  intro s x y n hx hy hn
  refine ⟨_, _, exec_opDXYN x y hn, exec_opDXYN (s := s.drawn x y n) x y hn, fb_drawn_drawn n hx hy, ?_⟩
  rw [State.drawn_flagReg, flagByte_eq_one, collision_spriteDraw, spriteBit_drawn n hx hy]
  refine exists_congr fun py => exists_congr fun px => and_congr_right fun hpy => and_congr_right fun hpx =>
    and_congr_right fun hbit => ?_
  have hpix : pixel (s.drawn x y n).fb py px = !pixel s.fb py px :=
    (pixel_spriteDraw_onScreen s x y n hpy hpx).trans (by rw [hbit, Bool.xor_true])
  rw [hpix, Bool.not_eq_true']

end

section
/-! The index register and Memory (44_index_memory.md; 20_memory.md sections 2 and 3): the arithmetic of I, what an address holds after a
store through I, the load of registers, and the faults past Memory. -/

namespace Sys2Proof.Machine
open Claims

/-- A glyph address is at most 0x050 + 5 * 0xFF, so it never wraps (44_index_memory.md R192). -/
theorem toNat_glyphAddress (b : Byte) : (glyphAddress b).toNat = 0x050 + 5 * b.toNat := by
  have hlt := b.isLt
  have h5 : (5 : Word).toNat = 5 := rfl
  simp only [glyphAddress, fontBase, BitVec.toNat_add, BitVec.toNat_mul, BitVec.toNat_ofNat, toNat_widen, h5]
  omega

theorem exec_opFX1E (x : Nibble) (s : State) : exec (.opFX1E x) s = .next (s.advance.setI (s.i + widen (s.getV x))) := rfl

theorem exec_opFX29 (x : Nibble) (s : State) : exec (.opFX29 x) s = .next (s.advance.setI (glyphAddress (s.getV x))) := rfl

theorem exec_opFX33 (x : Nibble) (s : State) : exec (.opFX33 x) s = .next (s.storeAtI (decimalDigits (s.getV x))) := rfl

theorem exec_opFX55 (x : Nibble) (s : State) : exec (.opFX55 x) s = .next (s.storeAtI (s.regBlock x)) := rfl

theorem pastMemory_of_outside {s : State} {n : Nat} (hn : n ≠ 0) (h : 0x1000 < s.i.toNat + n) :
    pastMemory s n = some (.memoryFault (max s.i.toNat 0x1000)) := if_pos ⟨hn, h⟩

/-! ### Stores -/

theorem State.storeAtI_of_fits {s : State} {bytes : List Byte} (h : s.i.toNat + bytes.length ≤ 0x1000) :
    s.storeAtI bytes = s.advance.setMem (s.mem.writeList s.i.toNat bytes) := by
  simp only [State.storeAtI, outOfRange?_eq_none.mpr (.inr h)]

/-- A store that fits writes Memory and PC only. -/
theorem State.storeAtI_unchanged {s : State} {bytes : List Byte} (h : s.i.toNat + bytes.length ≤ 0x1000) :
    Unchanged [.mem, .pc] s (s.storeAtI bytes) := by
  rw [State.storeAtI_of_fits h]
  exact (s.advance_writesOnly.trans (s.advance.setMem_writesOnly _)).unchanged (by decide)

theorem State.storeAtI_pc {s : State} {bytes : List Byte} (h : s.i.toNat + bytes.length ≤ 0x1000) :
    (s.storeAtI bytes).pc = s.pc + 2 := by
  rw [State.storeAtI_of_fits h]
  rfl

/-- What every address holds after a store that fits: the stored byte inside the block, the old one outside. -/
theorem State.read_storeAtI {s : State} {bytes : List Byte} {val : Nat → Byte} (hwf : s.mem.wf = true)
    (h : s.i.toNat + bytes.length ≤ 0x1000) (hval : ∀ k (hk : k < bytes.length), bytes[k] = val k) (a : Nat) :
    (s.storeAtI bytes).mem.read a = byteAfterStore s bytes.length val a := by
  rw [State.storeAtI_of_fits h, State.setMem_mem, byteAfterStore]
  split
  · next hin =>
    obtain ⟨k, rfl⟩ := Nat.exists_eq_add_of_le hin.1
    have hk : k < bytes.length := by omega
    rw [Memory.read_writeList_inside bytes hwf h hk, hval k hk, Nat.add_sub_cancel_left]
  · exact Memory.read_writeList_outside _ _ (by omega)

theorem getElem_decimalDigits (v : Byte) (k : Nat) (hk : k < (decimalDigits v).length) :
    (decimalDigits v)[k] = decimalDigit v k := by
  have hk3 : k < 3 := hk
  interval_cases k <;> rfl

/-- A digit fits a byte. -/
theorem toNat_decimalDigit (v : Byte) (k : Nat) : (decimalDigit v k).toNat =
    if k = 0 then v.toNat / 100 else if k = 1 then v.toNat / 10 % 10 else v.toNat % 10 := by
  have hlt := v.isLt
  rw [decimalDigit, BitVec.toNat_ofNat, Nat.mod_eq_of_lt]
  split_ifs <;> omega

theorem State.read_storeAtI_decimalDigits {s : State} (x : Nibble) (hwf : s.mem.wf = true) (h : s.i.toNat + 3 ≤ 0x1000) (a : Nat) :
    (s.storeAtI (decimalDigits (s.getV x))).mem.read a = byteAfterStore s 3 (decimalDigit (s.getV x)) a :=
  State.read_storeAtI (bytes := decimalDigits (s.getV x)) hwf h (getElem_decimalDigits _) a

theorem State.regBlock_fits {s : State} {x : Nibble} (h : s.i.toNat + x.toNat + 1 ≤ 0x1000) :
    s.i.toNat + (s.regBlock x).length ≤ 0x1000 := by
  rwa [State.length_regBlock, ← Nat.add_assoc]

theorem State.read_storeAtI_regBlock {s : State} (x : Nibble) (hwf : s.mem.wf = true) (h : s.i.toNat + x.toNat + 1 ≤ 0x1000) (a : Nat) :
    (s.storeAtI (s.regBlock x)).mem.read a = byteAfterStore s (x.toNat + 1) (fun k => s.getV (BitVec.ofNat 4 k)) a := by
  have hread := State.read_storeAtI hwf (State.regBlock_fits h) (State.getElem_regBlock s x) a
  rwa [State.length_regBlock] at hread

theorem byteAfterStore_inside (s : State) {n k : Nat} (val : Nat → Byte) (h : k < n) :
    byteAfterStore s n val (s.i.toNat + k) = val k := by
  rw [byteAfterStore, if_pos (by omega), Nat.add_sub_cancel_left]

theorem byteAfterStore_outside {s : State} {n a : Nat} (val : Nat → Byte) (h : a < s.i.toNat ∨ s.i.toNat + n ≤ a) :
    byteAfterStore s n val a = s.mem.read a := if_neg (by omega)

/-- A fetch reads what Memory holds (20_memory.md R55, R60). -/
theorem fetchesAs_of_read {t : State} {byte : Nat → Byte} (h : ∀ a, t.mem.read a = byte a) (u : State) : FetchesAs u t byte := by
  intro hpc hhi hlo
  rw [State.fetch_eq, if_pos (show u.pc.toNat + 2 ≤ memorySize from hpc), hhi, hlo, h, h]

/-! ### Loads -/

theorem exec_opFX65_of_fits {s : State} {x : Nibble} (h : s.i.toNat + x.toNat + 1 ≤ 0x1000) :
    exec (.opFX65 x) s = .next (s.advance.setRegs 0 (s.mem.readList s.i.toNat (x.toNat + 1))) :=
  exec_opFX65_of_inside (outOfRange?_eq_none.mpr (.inr h))

/-- Every register after a load of V0 to VX (44_index_memory.md R195). -/
theorem State.getV_setRegs_readList (s t : State) (x r : Nibble) :
    (t.setRegs 0 (s.mem.readList s.i.toNat (x.toNat + 1))).getV r =
      if r.toNat ≤ x.toNat then s.mem.read (s.i.toNat + r.toNat) else t.getV r := by
  have hx := x.isLt
  rw [State.getV_setRegs _ _ _ (by simp only [Memory.length_readList]; omega)]
  by_cases hr : r.toNat ≤ x.toNat
  · rw [dif_pos (by simp only [Memory.length_readList]; omega), if_pos hr, Memory.getElem_readList, Nat.sub_zero]
  · rw [dif_neg (by simp only [Memory.length_readList]; omega), if_neg hr]

end Sys2Proof.Machine

open Sys2Proof Sys2Proof.Machine Sys2Proof.Claims

/-- Settles O44: each is an advance and a write of I, with the sum modulo 2^16 and with the glyph's address. -/
theorem indexArithmeticWritesOnlyI : Obligations.IndexArithmeticWritesOnlyI := by
  intro s x
  refine ⟨⟨_, exec_opFX1E x s, ?_, rfl, s.advance_setI_unchanged _⟩,
    ⟨_, exec_opFX29 x s, toNat_glyphAddress _, rfl, s.advance_setI_unchanged _⟩⟩
  rw [State.setI_i, BitVec.toNat_add, toNat_widen]

/-- Settles O45: the block of three digits. -/
theorem decimalDigitsAreStored : Obligations.DecimalDigitsAreStored := by
  intro s x hwf hfit
  have hread := State.read_storeAtI_decimalDigits x hwf hfit
  have hdigit : ∀ k < 3, (s.storeAtI (decimalDigits (s.getV x))).mem.read (s.i.toNat + k) = decimalDigit (s.getV x) k :=
    fun k hk => (hread _).trans (byteAfterStore_inside s _ hk)
  exact ⟨_, exec_opFX33 x s,
    (congrArg BitVec.toNat (hdigit 0 (by decide))).trans (toNat_decimalDigit _ 0),
    (congrArg BitVec.toNat (hdigit 1 (by decide))).trans (toNat_decimalDigit _ 1),
    (congrArg BitVec.toNat (hdigit 2 (by decide))).trans (toNat_decimalDigit _ 2),
    fun a ha => (hread a).trans (byteAfterStore_outside _ ha), State.storeAtI_pc hfit, State.storeAtI_unchanged hfit⟩

/-- Settles O46: the block of registers. -/
theorem registersAreStored : Obligations.RegistersAreStored := by
  intro s x hwf hfit
  have hread := State.read_storeAtI_regBlock x hwf hfit
  refine ⟨_, exec_opFX55 x s, fun r hr => ?_, fun a ha => (hread a).trans (byteAfterStore_outside _ (by omega)),
    State.storeAtI_pc (State.regBlock_fits hfit), State.storeAtI_unchanged (State.regBlock_fits hfit)⟩
  rw [hread, byteAfterStore_inside s _ (Nat.lt_succ_of_le hr), BitVec.ofNat_toNat, BitVec.setWidth_eq]

/-- Settles O47: each register up to VX gets its byte. -/
theorem registersAreLoaded : Obligations.RegistersAreLoaded := by
  intro s x hfit
  have hget := s.getV_setRegs_readList s.advance x
  have hframe := s.advance_writesOnly.trans (s.advance.setRegs_writesOnly 0 (s.mem.readList s.i.toNat (x.toNat + 1)))
  refine ⟨_, exec_opFX65_of_fits hfit, fun r hr => by rw [hget, if_pos hr], fun r hr => ?_, ?_, hframe.unchanged (by decide)⟩
  · rw [hget, if_neg (Nat.not_le_of_lt hr), State.advance_getV]
  · exact s.advance.setRegs_writesOnly 0 _ .pc (by decide)

/-- Settles O48: the four rows of the fault table for blocks at I. -/
theorem accessesPastMemoryLatchAFault : Obligations.AccessesPastMemoryLatchAFault := by
  intro s x y n hs
  refine ⟨fun hn h => latchesFault_of_faultCause hs (pastMemory_of_outside (fun h0 => hn (BitVec.eq_of_toNat_eq h0)) h),
    fun h => latchesFault_of_faultCause hs (pastMemory_of_outside (by decide) h), fun h => ?_⟩
  have hblock := pastMemory_of_outside (s := s) (Nat.succ_ne_zero x.toNat) h
  exact ⟨latchesFault_of_faultCause hs hblock, latchesFault_of_faultCause hs hblock⟩

/-- Settles O49: after the store Memory reads as the stored bytes in the block and the old ones elsewhere, and a fetch reads Memory. -/
theorem storedCodeIsFetchedNext : Obligations.StoredCodeIsFetchedNext := by
  intro s x hwf
  refine ⟨fun hfit => ⟨_, exec_opFX33 x s, State.storeAtI_pc hfit, fetchesAs_of_read (State.read_storeAtI_decimalDigits x hwf hfit)⟩,
    fun hfit => ⟨_, exec_opFX55 x s, State.storeAtI_pc (State.regBlock_fits hfit), fetchesAs_of_read (State.read_storeAtI_regBlock x hwf hfit)⟩⟩

end

section
/-! The keypad instructions (45_keypad_timers.md R210, R211, R213): the key skips, and the wait for the least pressed key. -/

namespace Sys2Proof.Machine
open Claims

theorem exec_opEX9E (x : Nibble) (s : State) : exec (.opEX9E x) s = .next (s.skipIfKey x true) := rfl

theorem exec_opEXA1 (x : Nibble) (s : State) : exec (.opEXA1 x) s = .next (s.skipIfKey x false) := rfl

theorem State.skipIfKey_of_lt {s : State} {x : Nibble} (level : Bool) (h : (s.getV x).toNat < 16) :
    s.skipIfKey x level = s.advance.skipIf (s.key[(s.getV x).toNat] == level) := by
  rw [State.skipIfKey_eq, dif_pos h]

theorem State.key?_eq {s : State} {k : Byte} (h : k.toNat < 16) : s.key? k = some s.key[k.toNat] :=
  Vector.getElem?_eq_getElem h

/-- The scan of FX0A finds the least pressed key (R213). -/
theorem State.firstKey?_of_least {s : State} {k : Fin 16} (hk : s.key[k] = true) (hleast : ∀ j : Fin 16, j < k → s.key[j] = false) :
    s.firstKey? = some (BitVec.ofNat 8 k.val) := by
  have hpressed : s.key? (BitVec.ofNat 8 k.val) = some true := by
    have hval : (BitVec.ofNat 8 k.val).toNat = k.val := by simp; omega
    rw [State.key?, hval]
    exact (Vector.getElem?_eq_getElem k.isLt).trans (congrArg some hk)
  cases hfirst : s.firstKey? with
  | none => exact absurd hpressed (State.firstKey?_eq_none.mp hfirst _)
  | some j =>
    obtain ⟨hj, hmin⟩ := State.firstKey?_eq_some hfirst
    have hj16 : j.toNat < 16 := by
      by_contra hge
      rw [State.key?_eq_none.mpr (Nat.le_of_not_lt hge)] at hj
      cases hj
    have hge : ¬ j.toNat < k.val := fun hlt => by
      rw [State.key?_eq hj16] at hj
      cases (Option.some.inj hj).symm.trans (hleast ⟨j.toNat, hj16⟩ hlt)
    have hle : ¬ k.val < j.toNat := fun hlt => hmin (BitVec.ofNat 8 k.val) (by simp; omega) hpressed
    have heq : j.toNat = k.val := by omega
    rw [← heq, BitVec.ofNat_toNat, BitVec.setWidth_eq]

theorem State.firstKey?_of_none_pressed {s : State} (h : ∀ k : Fin 16, s.key[k] = false) : s.firstKey? = none := by
  refine State.firstKey?_eq_none.mpr fun k hk => ?_
  obtain ⟨hlt, hval⟩ := Vector.getElem?_eq_some_iff.mp hk
  cases hval.symm.trans (h ⟨k.toNat, hlt⟩)

/-- The wait of FX0A: the advance and the rewind leave PC where it was (R213). -/
theorem State.advance_rewind (s : State) : s.advance.setPc (s.advance.pc - 2) = s := by
  have hpc : s.advance.pc - 2 = s.pc := BitVec.add_sub_cancel s.pc 2
  rw [hpc]
  rfl

end Sys2Proof.Machine

open Sys2Proof Sys2Proof.Machine

/-- Settles O50: below 16 the skip of the key's level, at 16 or more the key rows of the fault table. -/
theorem keySkipsReadTheLevelOfKeyVX : Obligations.KeySkipsReadTheLevelOfKeyVX := by
  intro s x
  refine ⟨fun h => ⟨⟨_, exec_opEX9E x s, ?_, ?_⟩, ⟨_, exec_opEXA1 x s, ?_, ?_⟩⟩,
    fun h hs => ⟨latchesFault_of_faultCause hs (if_pos h), latchesFault_of_faultCause hs (if_pos h)⟩⟩
  · simp only [State.skipIfKey_of_lt _ h, State.advance_skipIf_pc, beq_true]
  · rw [State.skipIfKey_of_lt _ h]; exact s.advance_skipIf_unchanged _
  · simp only [State.skipIfKey_of_lt _ h, State.advance_skipIf_pc, beq_false, Bool.not_eq_true', ← Bool.not_eq_true, ite_not]
  · rw [State.skipIfKey_of_lt _ h]; exact s.advance_skipIf_unchanged _

/-- Settles O51: the scan finds the least pressed key, or none, and then the advance is taken back. -/
theorem waitForKeyTakesTheLeastPressedKey : Obligations.WaitForKeyTakesTheLeastPressedKey := by
  intro s x
  refine ⟨fun k hk hleast => ⟨_, exec_opFX0A_of_key (State.firstKey?_of_least hk hleast), ?_⟩,
    fun h => ⟨_, exec_opFX0A_of_no_key (State.firstKey?_of_none_pressed h), ?_⟩⟩
  · have hwrites := s.advance_setV_writesRegister x (BitVec.ofNat 8 k.val)
    rwa [BitVec.toNat_ofNat, Nat.mod_eq_of_lt (by omega)] at hwrites
  · rw [State.advance_rewind]
    exact fun p _ => (by cases p <;> rfl : p.kept s s).same

end

section
/-! Reset and the ROM load (70_reset_and_hazards.md sections 1 and 2). -/

namespace Sys2Proof.Machine

theorem Memory.initial_font {k : Nat} (h : k < 80) : Memory.initial (fontBase + k) = Config.font[k] := by
  rw [Memory.initial, dif_pos (by omega)]
  simp only [Nat.add_sub_cancel_left]

theorem Memory.initial_outside_font {a : Nat} (h : a < fontBase ∨ fontBase + 80 ≤ a) : Memory.initial a = 0x00 :=
  dif_neg (by omega)

theorem loadRom_of_fits {bytes : List Byte} {s : State} (hs : s.phase = .loadable) (h : bytes.length ≤ 3584) :
    loadRom bytes s = ((s.setMem (s.mem.writeList 0x200 bytes)).setPhase .loaded, .ok) := by
  obtain ⟨-, -, he⟩ | ⟨hno, -⟩ := loadRom_cases bytes s
  · exact he
  · exact absurd hno (by simp [hs, h])

theorem loadRom_of_refused {bytes : List Byte} {s : State} (h : s.phase ≠ .loadable ∨ 3584 < bytes.length) :
    loadRom bytes s = (s, .loadError) := by
  obtain ⟨hs, hlen, -⟩ | ⟨-, he⟩ := loadRom_cases bytes s
  · exact absurd h (by simp [hs, hlen])
  · exact he

end Sys2Proof.Machine

open Sys2Proof Sys2Proof.Machine

/-- Settles O53: Memory lists nothing, so it reads as the construction contents, and every other part is as `State.reset` writes it. -/
theorem resetStateIsTheResetTable : Obligations.ResetStateIsTheResetTable := by
  refine ⟨fun k h => Memory.initial_font h, fun a h => Memory.initial_outside_font h, fun r => ?_, rfl, rfl, fun k => ?_, rfl, rfl, rfl,
    pixel_clearedScreen, fun k => ?_, rfl, rfl⟩
  · simp [State.getV, State.reset]
  · simp only [State.stackEntry, State.reset, Vector.getElem?_replicate]
    split <;> rfl
  · simp [State.reset]

/-- Settles O54: the block store at 0x200, which lies inside Memory up to 3584 bytes; otherwise the refusal. -/
theorem romLoadCopiesTheImageOrRefuses : Obligations.RomLoadCopiesTheImageOrRefuses := by
  intro s bytes
  refine ⟨fun hwf hphase hlen => ?_, loadRom_of_refused⟩
  have hfit : 0x200 + bytes.length ≤ memorySize := by unfold memorySize; omega
  have hframe := (s.setMem_writesOnly (s.mem.writeList 0x200 bytes)).trans (State.setPhase_writesOnly _ .loaded)
  rw [loadRom_of_fits hphase hlen]
  exact ⟨rfl, fun k hk => Memory.read_writeList_inside bytes hwf hfit hk, fun a ha => Memory.read_writeList_outside _ _ ha, rfl,
    hframe.unchanged (by decide)⟩

end
